-- ==== Sys2Proof/Word.lean ====
section
/-! DEFINITION. The value types of the codec: bytes, Codes, jump indices and texts. -/

namespace Sys2Proof

/-- A byte, 0 to 255, bits numbered 7 down to 0 (R9). -/
abbrev Byte := BitVec 8

/-- A byte sequence (R10): element k is the byte at address k of its space. -/
abbrev Bytes := List Byte

/-- A Code: an unsigned integer of 1, 2 or 3 bytes, 0 to 0xFFFFFF (R13, R22). -/
abbrev Code := BitVec 24

/-- A jump index: the 13-bit value a pointer carries (R30). -/
abbrev JumpIndex := BitVec 13

/-- A text: a finite sequence of characters, each one Unicode scalar value (R10, decision D15; log 18). -/
abbrev Text := List Char

/-- A Token: a text, non-empty in every well-formed table (R10, R22). -/
abbrev Token := Text

end Sys2Proof
end

