-- ==== Sys2Proof/Syntax.lean ====
section
/-! DEFINITION. The stream elements (one constructor per row of spec/opcode_table.json), the streams they stand in, and the decoder's rejections. -/

namespace Sys2Proof

/-- The CharacterMap variant select `v`, numbered 0 and 1 (R25, decision D9; log 27). -/
inductive Variant where
  | zero
  | one
  deriving DecidableEq, Repr

/-- A stream element (R14, R90). The compressed stream has `ptr` and `lit`; the Code stream the four CODE2 rows,
`code3` and `code1`; display text the last four. -/
inductive Instr where
  /-- PTR, format ZP: `len5` is L = length - 4, `jv` the jump index (R72). -/
  | ptr (len5 : BitVec 5) (jv : JumpIndex)
  /-- LIT, format ZL: a byte copied unchanged (R71). -/
  | lit (b0 : Byte)
  /-- CODE2 with lead 0xD0 + a (row `lead D0..D7`, R78). `second` is absent when the lead is the last byte of the input:
  the element is CODE2 all the same, by its lead alone (R100), and its rule raises TruncatedCode (R102; log 32). -/
  | code2D0 (a : BitVec 3) (second : Option Byte)
  /-- CODE2 with lead 0xD8 + a (row `lead D8..D9`, R78). -/
  | code2D8 (a : BitVec 1) (second : Option Byte)
  /-- CODE2 with lead 0xDA (row `lead DA`, R78). -/
  | code2DA (second : Option Byte)
  /-- CODE2 with lead 0xE2 + a (row `lead E2..E3`, R78). -/
  | code2E2 (a : BitVec 1) (second : Option Byte)
  /-- CODE3 with lead 0xF0 + a and two more bytes (R79). -/
  | code3 (a : BitVec 2) (b1 b2 : Byte)
  /-- CODE1: any byte that starts no longer Code (R77). -/
  | code1 (b0 : Byte)
  /-- ESC.NAMED: a bracket group that is a Token; `body` is the text between the braces (R84, R122). -/
  | escNamed (body : Text)
  /-- ESC.HEX: a bracket group that is not a Token (R122: such a group "falls to rule R123"); `body` is the text between
  the braces. Its rule emits the hex escape's value or raises EncodingError (R123; log 32). -/
  | escHex (body : Text)
  /-- CRLF: the pair CR LF (R124). -/
  | crlf
  /-- CHAR: any other single character (R125). -/
  | char (c : Char)
  deriving DecidableEq, Repr

/-- The contents of one of the three streams (R70): what an engine has left to scan, tagged by the engine's stream.
The three classifications are kept separate (R86). -/
inductive StreamWords where
  | compressed (bytes : Bytes)
  | code (bytes : Bytes)
  | text (chars : Text)
  deriving DecidableEq, Repr

/-- Why the decoder gives no element. -/
inductive Reject where
  /-- Nothing is left to scan (R249: the end of the scan). -/
  | endOfStream
  /-- A bracket group with no closing brace (R120, R127, decision D14). -/
  | unclosedGroup
  deriving DecidableEq, Repr

end Sys2Proof
end

