-- ==== Sys2Proof/Config.lean ====
section
/-! DEFINITION. What the spec leaves to the implementation: the contents of the tables (R7, R8, U4 to U6). -/

namespace Sys2Proof

/-- A CharacterMap: the entries (Code, Token) of a finite partial map (R22). -/
abbrev CharMap := List (Code × Token)

/-- A reverse index: the entries (Token, Code) of a finite partial map (R26). -/
abbrev ReverseIndex := List (Token × Code)

/-- `JTinv`: the entries (jump index, backward offset) of a partial function (R30). -/
abbrev JumpInverse := List (JumpIndex × Nat)

/-- `JT`: entry d is the jump index of backward offset d, so `JT_CAP` is the length (R31, R34; log 6). -/
abbrev JumpForward := List JumpIndex

/-- The embedded CharacterMap of each variant. DESIGN CHOICE (log 4): the source gives no contents (N1), so nothing is
known of it but what `Machine.resetCharMap` keeps of R22 and R23. -/
opaque Config.charMapRaw : Variant → CharMap

/-- The embedded JumpTable read from index to offset. DESIGN CHOICE (log 6): no contents in the source (N2). -/
opaque Config.jumpInverseRaw : JumpInverse

/-- The embedded JumpTable read from offset to index. DESIGN CHOICE (log 6): no contents in the source (N2). -/
opaque Config.jumpForwardRaw : JumpForward

end Sys2Proof
end

