-- ==== Sys2Proof/Decode.lean ====
section
/-! DEFINITION. The three encodings of 30_encoding.md: classification and field decode of a stream element, and after
them the encoder. -/

namespace Sys2Proof

/-! ### Lead bytes and characters -/

/-- PTR_LEAD = 0xF0..0xF3: a pointer's, and a 3-byte Code's, lead byte (R6). -/
def isPtrLead (b : Byte) : Bool := decide (0xF0 ≤ b.toNat) && decide (b.toNat ≤ 0xF3)

/-- CODE2_LEAD = 0xD0..0xDA, 0xE2, 0xE3: a 2-byte Code's lead byte (R6). -/
def isCode2Lead (b : Byte) : Bool :=
  (decide (0xD0 ≤ b.toNat) && decide (b.toNat ≤ 0xDA)) || b == 0xE2#8 || b == 0xE3#8

/-- The opening brace, U+007B (R81, G4). -/
def lbrace : Char := Char.ofNat 0x7B
/-- The closing brace, U+007D (R81, G4). -/
def rbrace : Char := Char.ofNat 0x7D
/-- CR, U+000D (R81, G4). -/
def charCR : Char := Char.ofNat 0x0D
/-- LF, U+000A (R81, G4). -/
def charLF : Char := Char.ofNat 0x0A

/-- The bracket group of a body: both braces included (R81). -/
def bracketGroup (body : Text) : Text := lbrace :: (body ++ [rbrace])

/-- The text CR LF (R23, R124). -/
def crlfText : Text := [charCR, charLF]

/-! ### Pointer fields (R72 to R75) -/

/-- L = length - 4, bits 17:13 of the pointer: the two masked terms of R73. -/
def pointerLen5 (b0 b1 : Byte) : BitVec 5 :=
  ((b0 &&& 0x03#8).setWidth 5 <<< 3) + ((b1 &&& 0xE0#8) >>> 5).setWidth 5

/-- The jump index `((b1 & 0x1F) << 8) | b2` (R74). -/
def pointerJv (b1 b2 : Byte) : JumpIndex :=
  ((b1 &&& 0x1F#8).setWidth 13 <<< 8) ||| b2.setWidth 13

/-- byte0 of a pointer (R75). -/
def pointerByte0 (len5 : BitVec 5) : Byte := 0xF0#8 ||| ((len5 &&& 0x18#5) >>> 3).setWidth 8

/-- byte1 of a pointer (R75). -/
def pointerByte1 (len5 : BitVec 5) (jv : JumpIndex) : Byte :=
  ((len5 &&& 0x07#5).setWidth 8 <<< 5) ||| ((jv &&& 0x1F00#13) >>> 8).setWidth 8

/-- byte2 of a pointer (R75). -/
def pointerByte2 (jv : JumpIndex) : Byte := (jv &&& 0xFF#13).setWidth 8

/-- The three bytes of a pointer, in stream order (R56, R75, R195). -/
def pointerBytes (len5 : BitVec 5) (jv : JumpIndex) : Bytes :=
  [pointerByte0 len5, pointerByte1 len5 jv, pointerByte2 jv]

/-! ### Classification (R71, R77 to R81, R100, R121, R151) -/

/-- PTR or LIT, by the lead byte and what follows it: PTR when the lead is in PTR_LEAD and two more bytes follow, else
LIT (R71, R151). A lead too near the end is LIT by decision D4 (R157; log 10). -/
def decodePtrLit (b0 : Byte) : Bytes → Instr
  | b1 :: b2 :: _ => if isPtrLead b0 then .ptr (pointerLen5 b0 b1) (pointerJv b1 b2) else .lit b0
  | _ => .lit b0

/-- The first element of a compressed stream (R151). -/
def decodeCompressed : Bytes → Except Reject Instr
  | [] => .error .endOfStream
  | b0 :: rest => .ok (decodePtrLit b0 rest)

/-- The CODE2 row of the opcode table whose match and mask the lead byte meets, if any (R78, R90). -/
def code2Row (b0 : Byte) (second : Option Byte) : Option Instr :=
  if b0 &&& 0xF8#8 = 0xD0#8 then some (.code2D0 (b0.setWidth 3) second)
  else if b0 &&& 0xFE#8 = 0xD8#8 then some (.code2D8 (b0.setWidth 1) second)
  else if b0 = 0xDA#8 then some (.code2DA second)
  else if b0 &&& 0xFE#8 = 0xE2#8 then some (.code2E2 (b0.setWidth 1) second)
  else none

/-- CODE3 or CODE1, for a lead that is no CODE2 lead (R80, R100). -/
def decodeCode31 (b0 : Byte) : Bytes → Instr
  | b1 :: b2 :: _ => if isPtrLead b0 then .code3 (b0.setWidth 2) b1 b2 else .code1 b0
  | _ => .code1 b0

/-- The first element of a Code stream, in the order of R100: CODE2, CODE3, CODE1. -/
def decodeCode : Bytes → Except Reject Instr
  | [] => .error .endOfStream
  | b0 :: rest =>
    match code2Row b0 rest.head? with
    | some i => .ok i
    | none => .ok (decodeCode31 b0 rest)

/-- The body of the bracket group whose opening brace has just been read: the text up to the first closing brace
(R121, decision D14; log 17). -/
def groupBody : Text → Option Text
  | [] => none
  | c :: rest => if c = rbrace then some [] else (groupBody rest).map (c :: ·)

/-- The first element of a display text (R81, R121). `isToken` is the reverse index's domain: a bracket group in it is
ESC.NAMED, any other is ESC.HEX (R122, R123). -/
def decodeText (isToken : Text → Bool) : Text → Except Reject Instr
  | [] => .error .endOfStream
  | c :: rest =>
    if c = lbrace then
      match groupBody rest with
      | none => .error .unclosedGroup
      | some body => if isToken (bracketGroup body) then .ok (.escNamed body) else .ok (.escHex body)
    else if c = charCR ∧ rest.head? = some charLF then .ok .crlf
    else .ok (.char c)

/-- The first element of a stream, by the stream's own classification (R70, R86). -/
def decode (isToken : Text → Bool) : StreamWords → Except Reject Instr
  | .compressed bytes => decodeCompressed bytes
  | .code bytes => decodeCode bytes
  | .text chars => decodeText isToken chars

/-! ### Encoder -/

/-- The bytes of a CODE2 element: the lead, and the second byte where there is one (R78). -/
def code2Bytes (lead : Byte) (second : Option Byte) : Bytes := lead :: second.toList

/-- Lead byte of the row `lead D0..D7`, pattern 11010AAA. -/
def leadD0 (a : BitVec 3) : Byte := 0xD0#8 ||| a.setWidth 8
/-- Lead byte of the row `lead D8..D9`, pattern 1101100A. -/
def leadD8 (a : BitVec 1) : Byte := 0xD8#8 ||| a.setWidth 8
/-- Lead byte of the row `lead DA`, pattern 11011010. -/
def leadDA : Byte := 0xDA#8
/-- Lead byte of the row `lead E2..E3`, pattern 1110001A. -/
def leadE2 (a : BitVec 1) : Byte := 0xE2#8 ||| a.setWidth 8
/-- Lead byte of CODE3, pattern 111100AA. -/
def leadF0 (a : BitVec 2) : Byte := 0xF0#8 ||| a.setWidth 8

/-- The stream units of an element, tagged by its stream (R71 to R84). -/
def encode : Instr → StreamWords
  | .ptr len5 jv => .compressed (pointerBytes len5 jv)
  | .lit b0 => .compressed [b0]
  | .code2D0 a second => .code (code2Bytes (leadD0 a) second)
  | .code2D8 a second => .code (code2Bytes (leadD8 a) second)
  | .code2DA second => .code (code2Bytes leadDA second)
  | .code2E2 a second => .code (code2Bytes (leadE2 a) second)
  | .code3 a b1 b2 => .code [leadF0 a, b1, b2]
  | .code1 b0 => .code [b0]
  | .escNamed body => .text (bracketGroup body)
  | .escHex body => .text (bracketGroup body)
  | .crlf => .text crlfText
  | .char c => .text [c]

/-- How many units a stream holds. -/
def StreamWords.length : StreamWords → Nat
  | .compressed bytes => bytes.length
  | .code bytes => bytes.length
  | .text chars => chars.length

/-- The width of an element in bytes, or in characters for display text (R70, R80, R81; `width_bytes`, `width_chars`
of the opcode table). -/
def Instr.width : Instr → Nat
  | .ptr _ _ => 3
  | .lit _ => 1
  | .code2D0 _ second => 1 + second.toList.length
  | .code2D8 _ second => 1 + second.toList.length
  | .code2DA second => 1 + second.toList.length
  | .code2E2 _ second => 1 + second.toList.length
  | .code3 _ _ _ => 3
  | .code1 _ => 1
  | .escNamed body => body.length + 2
  | .escHex body => body.length + 2
  | .crlf => 2
  | .char _ => 1

/-! ### Words of the opcode table (log 31) -/

/-- The text of a text row's word. The table numbers only the first character's code point; the characters its
`encoding` column fixes after it (LF after CR; for an opening brace the hex escape with the one digit 0) are added. -/
def tableText (w : Nat) : Text :=
  if w = 0x7B then bracketGroup ['0', 'x', '0']
  else if w = 0x0D then crlfText
  else [Char.ofNat w]

/-- The stream a word of the opcode table stands for: 16 bits are a CODE2 row, 24 bits with the value of a Unicode
scalar a text row, anything else the compressed stream, whose rows stand first in the table (PTR and CODE3, and LIT
and CODE1, have the same words). Bytes are numbered as the table numbers them, the first byte most significant.

DESIGN CHOICE (log 31): the table does not say what follows the word, and the conditions of its rows count what is left
in the stream. Two zero bytes follow an 8-bit word and one a 16-bit word, so that three bytes are there, the longest
element; the 8-bit words 0xF0 to 0xF3 are therefore PTR and not LIT. Nothing follows a 24-bit word or a text. -/
def tableWords (nbits w : Nat) : StreamWords :=
  if nbits = 16 then .code [BitVec.ofNat 8 (w / 256), BitVec.ofNat 8 w, 0#8]
  else if nbits = 24 then
    if w < 0xD800 ∨ (0xDFFF < w ∧ w < 0x110000) then .text (tableText w)
    else .compressed [BitVec.ofNat 8 (w / 65536), BitVec.ofNat 8 (w / 256), BitVec.ofNat 8 w]
  else .compressed [BitVec.ofNat 8 w, 0#8, 0#8]

/-- The element the decoder reads from a word of the opcode table, with no bracket group a Token. -/
def decodeTableWord (nbits w : Nat) : Option Instr :=
  (decode (fun _ => false) (tableWords nbits w)).toOption

end Sys2Proof
end

