-- ==== Sys2Proof/Machine/Tables.lean ====
section
/-! DEFINITION. The read-only tables: lookups, the construction of the reverse index, what the spec fixes of their
contents, and the tables a reset machine holds. -/

namespace Sys2Proof.Machine

/-! ### Lookups -/

/-- `CM[v](c)` (R22). -/
def charMapLookup (m : CharMap) (c : Code) : Option Token := List.lookup c m

/-- `RI[v](t)` (R26). -/
def reverseLookup (ri : ReverseIndex) (t : Token) : Option Code := List.lookup t ri

/-- `JTinv(jv)` (R30). -/
def jumpLookup (ji : JumpInverse) (jv : JumpIndex) : Option Nat := List.lookup jv ji

/-- `JT(d)`, defined for d < JT_CAP (R31). -/
def jumpIndexOf (jt : JumpForward) (d : Nat) : Option JumpIndex := jt[d]?

/-- `JT_CAP` (R34). -/
def jumpCapacity (jt : JumpForward) : Nat := jt.length

/-! ### The reverse index (R26, R241) -/

/-- One step of the construction: "if RI(t) is undefined or greater than c, set RI(t) <- c" (R241). -/
def reverseInsert (t : Token) (c : Code) : ReverseIndex → ReverseIndex
  | [] => [(t, c)]
  | (t', c') :: rest =>
    if t' = t then (t', if c.toNat < c'.toNat then c else c') :: rest
    else (t', c') :: reverseInsert t c rest

/-- The reverse index of a CharacterMap, built entry by entry from empty (R241). -/
def reverseBuild (m : CharMap) : ReverseIndex :=
  m.foldl (fun ri e => reverseInsert e.2 e.1 ri) []

/-! ### What the spec fixes of the tables -/

/-- Keys strictly rising: every Code has at most one entry, and equal maps are equal lists (R22). -/
def codesRising : CharMap → Bool
  | [] => true
  | [_] => true
  | (c, _) :: (c', t') :: rest => decide (c.toNat < c'.toNat) && codesRising ((c', t') :: rest)

/-- A CharacterMap in canonical form with non-empty Tokens (R22). -/
def charMapWf (m : CharMap) : Bool := codesRising m && m.all (fun e => !e.2.isEmpty)

/-- Some entry's Token is t. -/
def hasToken (m : CharMap) (t : Token) : Bool := m.any (fun e => e.2 == t)

/-- The body of a text that is one bracket group: an opening brace, then characters none of which is the closing brace,
then the closing brace (WF2). -/
def groupOf (t : Text) : Option Text :=
  match t with
  | [] => none
  | c :: rest => if c = lbrace ∧ groupBody rest = some rest.dropLast then some rest.dropLast else none

/-- The body is the given name and something after it, the NN of R23 (c) (log 5). -/
def inFamily (name body : Text) : Bool := name.isPrefixOf body && decide (name.length < body.length)

/-- Some entry's Token is a bracket group of the family with the given name: its body is the name and something after
it (R23 (c); log 5). -/
def hasFamily (m : CharMap) (name : Text) : Bool := m.any (fun e => (groupOf e.2).any (inFamily name))

/-- A punctuation character: of ASCII, or of the General Punctuation block, U+2010 to U+205E. DEDUCED (log 5): R23 (b)
says "punctuation" and lists no character. -/
def isPunctuation (c : Char) : Bool :=
  (decide (0x21 ≤ c.toNat) && decide (c.toNat ≤ 0x2F)) || (decide (0x3A ≤ c.toNat) && decide (c.toNat ≤ 0x40))
    || (decide (0x5B ≤ c.toNat) && decide (c.toNat ≤ 0x60)) || (decide (0x7B ≤ c.toNat) && decide (c.toNat ≤ 0x7E))
    || (decide (0x2010 ≤ c.toNat) && decide (c.toNat ≤ 0x205E))

/-- Some entry's Token is one punctuation character (R23 (b)). -/
def hasPunctuation (m : CharMap) : Bool :=
  m.any fun e =>
    match e.2 with
    | [c] => isPunctuation c
    | _ => false

/-- What R23 fixes of the contents: 0x0A is `A` and 0x0B is `B` (a), which are also the letters of
(b); punctuation (b); the named control tokens and the two families (c); and CR LF is a Token (d) (log 5). -/
def charMapSourceFacts (m : CharMap) : Bool :=
  charMapLookup m 0x0A#24 == some ['A'] && charMapLookup m 0x0B#24 == some ['B'] && hasToken m crlfText
    && hasToken m (bracketGroup ['E', 'N', 'D']) && hasToken m (bracketGroup ['C', 'l', 'o', 's', 'e'])
    && hasToken m (bracketGroup ['B', 'e', 'g', 'i', 'n', ' ', 'L', 'i', 's', 't'])
    && hasFamily m ['D', 'e', 'l', 'a', 'y', ' '] && hasFamily m ['C', 'o', 'l', 'o', 'r', ' ']
    && hasPunctuation m

/-- `JTinv(JT(d)) = some d` for every d < JT_CAP (R32). -/
def jumpCoherent (jt : JumpForward) (ji : JumpInverse) : Bool :=
  (List.range jt.length).all fun d =>
    match jumpIndexOf jt d with
    | some j => jumpLookup ji j == some d
    | none => false

/-! ### The tables after reset (R42, R240) -/

/-- A map that meets the constraints: it shows that they can be met, and says nothing of the hardware (log 4). -/
def charMapWitness : CharMap :=
  [(0x0A#24, ['A']), (0x0B#24, ['B']), (0x10#24, crlfText), (0x11#24, bracketGroup ['E', 'N', 'D']),
   (0x12#24, bracketGroup ['C', 'l', 'o', 's', 'e']),
   (0x13#24, bracketGroup ['B', 'e', 'g', 'i', 'n', ' ', 'L', 'i', 's', 't']),
   (0x14#24, bracketGroup ['D', 'e', 'l', 'a', 'y', ' ', '0', '0']),
   (0x15#24, bracketGroup ['C', 'o', 'l', 'o', 'r', ' ', '0', '0']), (0x16#24, ['.'])]

/-- A CharacterMap cut down to the constraints of R22 and R23: itself where it meets them. -/
def constrainCharMap (m : CharMap) : CharMap :=
  if charMapWf m && charMapSourceFacts m then m else charMapWitness

/-- `CM[v]` after reset: any map that meets R22 and R23, and nothing more is known of it (log 4). -/
def resetCharMap (v : Variant) : CharMap := constrainCharMap (Config.charMapRaw v)

/-- `JT` after reset: any table coherent with `JTinv` (R32; log 6). -/
def resetJumpForward : JumpForward :=
  if jumpCoherent Config.jumpForwardRaw Config.jumpInverseRaw then Config.jumpForwardRaw else []

/-- `JTinv` after reset (R30; log 6). -/
def resetJumpInverse : JumpInverse := Config.jumpInverseRaw

end Sys2Proof.Machine
end

