-- ==== Sys2Proof/Machine/State.lean ====
section
/-! DEFINITION. The state of the block: tables, spaces, the engines' registers, the command interface, and reset. -/

namespace Sys2Proof.Machine

/-- The read-only tables (R22 to R35). -/
structure Tables where
  /-- `CM[0]` -/
  cm0 : CharMap
  /-- `CM[1]` -/
  cm1 : CharMap
  /-- `RI[0]` -/
  ri0 : ReverseIndex
  /-- `RI[1]` -/
  ri1 : ReverseIndex
  /-- `JTinv` -/
  jtInv : JumpInverse
  /-- `JT`; `JT_CAP` is its length -/
  jt : JumpForward
  deriving DecidableEq, Repr

/-- A byte-addressed buffer: addresses 0 to size - 1 exist and no other (R52). `cells` lists the bytes that are not 0,
addresses strictly rising, so that equal buffers are equal data; an unlisted address below `size` holds 0 (log 7). -/
structure Memory where
  size : Nat
  cells : List Host.Cell
  deriving DecidableEq, Repr

/-- Decompressor registers (R37). -/
structure Expander where
  /-- `WS` -/
  ws : Nat
  /-- the scan index, the engine's pc -/
  i : Nat
  b0 : Byte
  b1 : Byte
  b2 : Byte
  len : Nat
  jv : JumpIndex
  jump : Nat
  start : Int
  /-- `end` -/
  stop : Int
  /-- `PT_LOG` (R222; log 22) -/
  ptLog : List Nat
  deriving DecidableEq, Repr

/-- Decoder registers (R38). -/
structure Decoder where
  v : Variant
  /-- operand of DECODE_NEXT; the pc of DECODE_WORD -/
  pos : Nat
  b0 : Byte
  code : Code
  w : Nat
  tok : Token
  newpos : Nat
  deriving DecidableEq, Repr

/-- Encoder registers (R39). -/
structure Encoder where
  v : Variant
  /-- optional operand (R214; log 21) -/
  maxLen : Option Nat
  /-- the scan index, the engine's pc -/
  k : Nat
  j : Nat
  val : Code
  deriving DecidableEq, Repr

/-- Splitter registers (R40); `p` is the loop variable of R180 (log 24). -/
structure Splitter where
  delim : Byte
  p : Nat
  words : List Bytes
  deriving DecidableEq, Repr

/-- Compressor registers (companion, R192; log 29). -/
structure Compressor where
  maxLen : Option Nat
  i : Nat
  deriving DecidableEq, Repr

/-- Which command runs; `idle` when none does (R20, R223). -/
inductive Phase where
  | idle
  | expand
  | decodeNext
  | decodeWord
  | encode
  | split
  | compress
  deriving DecidableEq, Repr

/-- A command with its operands (R211). -/
inductive Command where
  | expand (fb w : Bytes) (ws : Nat)
  | decodeNext (b : Bytes) (pos : Nat) (v : Variant)
  | decodeWord (b : Bytes) (v : Variant)
  | encode (s : Text) (v : Variant) (maxLen : Option Nat)
  /-- `delim` absent means the default 0xFE (R6, R180) -/
  | split (b : Bytes) (delim : Option Byte)
  | compress (b : Bytes) (maxLen : Option Nat)
  deriving DecidableEq, Repr

/-- The result of a successful command (R211). -/
inductive Result where
  | expanded (out : Bytes) (ptLog : List Nat)
  | decodedNext (tok : Token) (newpos : Nat)
  | decodedWord (txt : Text)
  | encoded (out : Bytes)
  | splitWords (words : List Bytes)
  | compressed (out : Bytes)
  deriving DecidableEq, Repr

/-- The status codes (R215); their numbers are `statusNumber`. -/
inductive Status where
  | ok
  | encodingError
  | capacityError
  | truncatedCode
  | unmappedJump
  | badOperand
  deriving DecidableEq, Repr

/-- A response: exactly one of Ok(result) and Err(code, info) (R212). -/
inductive Response where
  | ok (r : Result)
  | err (code : Status) (info : Nat)
  deriving DecidableEq, Repr

/-- Faults that stop the machine: none. The spec has no trap and no stuck state (R223, R249): every error it names is
the response of a command, which the machine delivers and goes on from (`raise`). Safe: nothing stops. -/
inductive Fault where
  deriving DecidableEq, Repr

/-- Refusals. -/
inductive Refusal where
  /-- Raised by `exec` for an instruction without a meaning; no arm of `exec` raises it. Safe: the machine stops. -/
  | notModelled (mnemonic : String)
  deriving DecidableEq, Repr

/-- Everything the spec gives the block (INVENTORY.md, State). -/
structure State where
  tables : Tables
  /-- the full buffer `FB` -/
  fb : Memory
  /-- the window `W` -/
  w : Bytes
  /-- decoder, splitter and compressor input `B` -/
  b : Bytes
  /-- encoder input `S` -/
  src : Text
  /-- byte output `OUT` -/
  out : Bytes
  /-- text output `TXT` -/
  txt : Text
  expander : Expander
  decoder : Decoder
  encoder : Encoder
  splitter : Splitter
  compressor : Compressor
  phase : Phase
  /-- the request the host has placed and the block has not yet accepted (R210; log 1) -/
  request : Option Command
  /-- the response of the last command; none before it (R212; log 1) -/
  response : Option Response
  /-- `STATUS` -/
  status : Status
  /-- `INFO` -/
  info : Option Nat
  deriving DecidableEq, Repr

/-- The tables after process initialisation: "RI[0] and RI[1] are derived from them" (R42, R240, R241). -/
def resetTables : Tables where
  cm0 := resetCharMap .zero
  cm1 := resetCharMap .one
  ri0 := reverseBuild (resetCharMap .zero)
  ri1 := reverseBuild (resetCharMap .one)
  jtInv := resetJumpInverse
  jt := resetJumpForward

/-- The block after reset: the tables hold their contents and no command is running (R42, R240). The spec gives no
other register a value; those below are DESIGN CHOICE (log 2, log 3). -/
def State.reset : State where
  tables := resetTables
  fb := { size := 0, cells := [] }
  w := []
  b := []
  src := []
  out := []
  txt := []
  expander := { ws := 0, i := 0, b0 := 0#8, b1 := 0#8, b2 := 0#8, len := 0, jv := 0#13, jump := 0, start := 0,
                stop := 0, ptLog := [] }
  decoder := { v := .zero, pos := 0, b0 := 0#8, code := 0#24, w := 0, tok := [], newpos := 0 }
  encoder := { v := .zero, maxLen := none, k := 0, j := 0, val := 0#24 }
  splitter := { delim := 0xFE#8, p := 0, words := [] }
  compressor := { maxLen := none, i := 0 }
  phase := .idle
  request := none
  response := none
  status := .ok
  info := none

end Sys2Proof.Machine
end

