-- ==== Sys2Proof/Machine/Flags.lean ====
section
/-! DEFINITION. There are no flags (R41): the status word STATUS and INFO is all, written once, at the end of a command. -/

namespace Sys2Proof.Machine

/-- The numeric status codes (R215). -/
def statusNumber : Status → Nat
  | .ok => 0
  | .encodingError => 1
  | .capacityError => 2
  | .truncatedCode => 3
  | .unmappedJump => 4
  | .badOperand => 5

/-- The STATUS of a response: 0 for Ok, the error's code for Err (R212). -/
def Response.status : Response → Status
  | .ok _ => .ok
  | .err code _ => code

/-- The INFO of a response: none for Ok (R215), the error's info for Err (R212). -/
def Response.info : Response → Option Nat
  | .ok _ => none
  | .err _ info => some info

/-- Deliver a response: STATUS and INFO take its values and the block is idle (R212, R223). -/
def State.respond (r : Response) (s : State) : State :=
  { s with response := some r, status := r.status, info := r.info, phase := .idle }

end Sys2Proof.Machine
end

