-- ==== Sys2Proof/Machine/Ops.lean ====
section
/-! DEFINITION. The named operations over spaces and registers: MemRead, Emit, EmitText, the register writes of each
engine, `raise`, and the host's request. -/

namespace Sys2Proof.Machine

/-! ### Tables by variant -/

/-- `CM[v]` (R25). -/
def Tables.cm (t : Tables) : Variant → CharMap
  | .zero => t.cm0
  | .one => t.cm1

/-- `RI[v]` (R26). -/
def Tables.ri (t : Tables) : Variant → ReverseIndex
  | .zero => t.ri0
  | .one => t.ri1

/-! ### The full buffer -/

/-- The cells of a byte sequence that starts at address a: the bytes that are not 0 (log 7). -/
def cellsFrom (a : Nat) : Bytes → List Host.Cell
  | [] => []
  | x :: xs => if x = 0#8 then cellsFrom (a + 1) xs else (a, x) :: cellsFrom (a + 1) xs

/-- The buffer that holds a byte sequence from address 0 (R52). -/
def memOfBytes (xs : Bytes) : Memory := { size := xs.length, cells := cellsFrom 0 xs }

/-- The byte of an existing address: the listed one, else 0 (log 7). -/
def memByte (m : Memory) (a : Nat) : Byte := (List.lookup a m.cells).getD 0#8

/-- Read one byte: an address at or past `size` does not exist (R52). -/
def memRead? (m : Memory) (a : Nat) : Option Byte := if a < m.size then some (memByte m a) else none

/-- `MemRead(addr, n)`: the n bytes FB[addr..addr+n), only ever called in range (R11, R52). -/
def memRead (m : Memory) (a n : Nat) : Bytes := (List.range n).map fun k => memByte m (a + k)

/-- Cells with strictly rising addresses from a on, all below size, none holding 0. -/
def cellsWf (a size : Nat) : List Host.Cell → Bool
  | [] => true
  | (x, v) :: rest => decide (a ≤ x) && decide (x < size) && v != 0#8 && cellsWf (x + 1) size rest

/-- The canonical form of a buffer (log 7). -/
def Memory.wf (m : Memory) : Bool := cellsWf 0 m.size m.cells

/-! ### One-element reads of the spaces (R50) -/

/-- The byte spaces. -/
inductive ByteSpace where
  | w
  | fb
  | b
  | out
  deriving DecidableEq, Repr

/-- The byte at an address of a byte space; none where the address does not exist. -/
def State.byteAt (s : State) (a : Nat) : ByteSpace → Option Byte
  | .w => s.w[a]?
  | .fb => memRead? s.fb a
  | .b => s.b[a]?
  | .out => s.out[a]?

/-- The character spaces. -/
inductive CharSpace where
  | src
  | txt
  deriving DecidableEq, Repr

/-- The character at an address of a character space; none where the address does not exist. -/
def State.charAt (s : State) (a : Nat) : CharSpace → Option Char
  | .src => s.src[a]?
  | .txt => s.txt[a]?

/-! ### Output -/

/-- `Emit(bs)`: append to OUT (R11, R54). -/
def State.emit (bs : Bytes) (s : State) : State := { s with out := s.out ++ bs }

/-- `EmitText(t)`: append to TXT (R11, R54). -/
def State.emitText (t : Text) (s : State) : State := { s with txt := s.txt ++ t }

/-! ### Register writes -/

/-- Write decompressor registers. -/
def State.setExpander (e : Expander) (s : State) : State := { s with expander := e }
/-- Write decoder registers. -/
def State.setDecoder (d : Decoder) (s : State) : State := { s with decoder := d }
/-- Write encoder registers. -/
def State.setEncoder (e : Encoder) (s : State) : State := { s with encoder := e }
/-- Write splitter registers. -/
def State.setSplitter (p : Splitter) (s : State) : State := { s with splitter := p }
/-- Write compressor registers. -/
def State.setCompressor (c : Compressor) (s : State) : State := { s with compressor := c }

/-- `pc <- pc + n` of the decompressor (R11). -/
def State.advanceI (n : Nat) (s : State) : State := s.setExpander { s.expander with i := s.expander.i + n }

/-! ### Errors -/

/-- What was appended to OUT, TXT or PT_LOG is discarded (R216; log 20). -/
def State.discard (s : State) : State :=
  { s with out := [], txt := [], expander := { s.expander with ptLog := [] } }

/-- `raise E(info)`: the engine stops at once, no result is delivered, the response is Err(code of E, info), and the
block is idle, ready for the next command: there is no return (R216, R223). -/
def State.raise (e : Status) (info : Nat) (s : State) : State := s.discard.respond (.err e info)

/-! ### Host -/

/-- The host places a request (R210; log 1). A request that still waits in the slot is replaced: DESIGN CHOICE (log 41). -/
def State.submit (c : Command) (s : State) : State := { s with request := some c }

end Sys2Proof.Machine
end

