-- ==== Sys2Proof/Machine/Operands.lean ====
section
/-! DEFINITION. Operand forms: pointer length and source range, Code assembly, the Token lookup and its fallback, hex
escapes, and the bytes of a Code. -/

namespace Sys2Proof.Machine

/-! ### Pointers (R73, R152) -/

/-- `len = L + 4`, 4 to 35 (R73). -/
def pointerLength (len5 : BitVec 5) : Nat := len5.toNat + 4

/-- `start = WS + i - jump`, on mathematical integers (R152). -/
def sourceStart (ws i jump : Nat) : Int := (ws : Int) + (i : Int) - (jump : Int)

/-- `end = start + len - 1` (R152). -/
def sourceStop (start : Int) (len : Nat) : Int := start + (len : Int) - 1

/-- Out of bounds: `start < 0 or end >= N` (R61, R152). -/
def rangeOutOfBounds (start stop : Int) (n : Nat) : Bool := decide (start < 0) || decide ((n : Int) ≤ stop)

/-! ### Codes (R55) -/

/-- A one-byte Code (R77). -/
def code1Value (b0 : Byte) : Code := BitVec.ofNat 24 b0.toNat

/-- `byte0*256 + byte1` (R55, R78). -/
def code2Value (b0 b1 : Byte) : Code := BitVec.ofNat 24 (b0.toNat * 256 + b1.toNat)

/-- `byte0*65536 + byte1*256 + byte2` (R55, R79). -/
def code3Value (b0 b1 b2 : Byte) : Code := BitVec.ofNat 24 (b0.toNat * 65536 + b1.toNat * 256 + b2.toNat)

/-- `CodeBytes(val)`: one, two or three bytes by magnitude, big-endian, the whole top byte kept (R126, decision D13;
log 16). -/
def codeBytes (val : Code) : Bytes :=
  if val.toNat < 0x100 then [val.extractLsb' 0 8]
  else if val.toNat < 0x10000 then [val.extractLsb' 8 8, val.extractLsb' 0 8]
  else [val.extractLsb' 16 8, val.extractLsb' 8 8, val.extractLsb' 0 8]

/-! ### Hex text (R12) -/

/-- One hexadecimal digit, upper case (R12, decision D11; log 14). -/
def hexDigit (n : Nat) : Char := if n < 10 then Char.ofNat (0x30 + n) else Char.ofNat (0x37 + n)

/-- `hex_n(v)`: exactly n digits, most significant first, zero-padded (R12). -/
def hexText : Nat → Nat → Text
  | 0, _ => []
  | n + 1, v => hexText n (v / 16) ++ [hexDigit (v % 16)]

/-- The value of a hexadecimal digit of either case (R12, R123). -/
def hexValue? (c : Char) : Option Nat :=
  if 0x30 ≤ c.toNat ∧ c.toNat ≤ 0x39 then some (c.toNat - 0x30)
  else if 0x41 ≤ c.toNat ∧ c.toNat ≤ 0x46 then some (c.toNat - 0x37)
  else if 0x61 ≤ c.toNat ∧ c.toNat ≤ 0x66 then some (c.toNat - 0x57)
  else none

/-- A hexadecimal digit of either case. -/
def isHexDigit (c : Char) : Bool := (hexValue? c).isSome

/-- `parsehex(t)`: most significant digit first (R12). -/
def parseHex (t : Text) : Nat := t.foldl (fun acc c => acc * 16 + (hexValue? c).getD 0) 0

/-- The digits of a hex escape's body: `0x`, lower-case x, then 1 to 6 hexadecimal digits of either case and nothing
else (R123, decision D12; log 15). -/
def hexEscapeDigits : Text → Option Text
  | c0 :: c1 :: ds =>
    if c0 = '0' ∧ c1 = 'x' ∧ 1 ≤ ds.length ∧ ds.length ≤ 6 ∧ ds.all isHexDigit = true then some ds else none
  | _ => none

/-- `IsHexEscape(body)` (R123). -/
def isHexEscape (body : Text) : Bool := (hexEscapeDigits body).isSome

/-! ### Token lookup (R104) -/

/-- The fallback Token of an unknown Code: the hex escape with 2w digits (R83, R104). -/
def fallbackToken (code : Code) (w : Nat) : Token := bracketGroup ('0' :: 'x' :: hexText (2 * w) code.toNat)

/-- `Lookup(v, code, w)` (R104). -/
def lookupToken (m : CharMap) (code : Code) (w : Nat) : Token :=
  match charMapLookup m code with
  | some t => t
  | none => fallbackToken code w

/-! ### Encoder keys -/

/-- A bracket group is a Token of the reverse index (R122). -/
def isTokenOf (ri : ReverseIndex) (t : Text) : Bool := (reverseLookup ri t).isSome

end Sys2Proof.Machine
end

