-- ==== Sys2Proof/Machine/CharDecode.lean ====
section
/-! DEFINITION. The decoder's stream elements CODE1, CODE2 and CODE3 (41_charmap_decode.md). -/

namespace Sys2Proof.Machine

/-- The registers an assembled Code leaves: code, w, the looked-up Token, and the index just after the element
(R101 to R104). -/
def codeRegisters (b0 : Byte) (code : Code) (w : Nat) (s : State) : State :=
  s.setDecoder { s.decoder with
    b0 := b0, code := code, w := w,
    tok := lookupToken (s.tables.cm s.decoder.v) code w,
    newpos := s.decoder.pos + w, pos := s.decoder.pos + w }

/-- What the command does with an element's Token: DECODE_NEXT ends with (tok, newpos) (R105); DECODE_WORD emits it
and goes on (R106; log 30, log 34). -/
def deliverToken (s : State) : State :=
  match s.phase with
  | .decodeNext => s.respond (.ok (.decodedNext s.decoder.tok s.decoder.newpos))
  | _ => s.emitText s.decoder.tok

/-- An element of the Code stream: assemble, look up, deliver. -/
def codeEffect (b0 : Byte) (code : Code) (w : Nat) (s : State) : State :=
  deliverToken (codeRegisters b0 code w s)

/-- CODE2 (R102): TruncatedCode(pos) when the lead is the last byte of the input (decision D10; log 13). -/
def code2Effect (lead : Byte) (second : Option Byte) (s : State) : State :=
  match second with
  | none => (s.setDecoder { s.decoder with b0 := lead }).raise .truncatedCode s.decoder.pos
  | some b1 => codeEffect lead (code2Value lead b1) 2 s

/-- CODE2, lead 0xD0 to 0xD7 (R102). -/
def execCode2D0 (a : BitVec 3) (second : Option Byte) (s : State) : Host.Outcome State Fault Refusal :=
  .next (code2Effect (leadD0 a) second s)

/-- CODE2, lead 0xD8 and 0xD9 (R102). -/
def execCode2D8 (a : BitVec 1) (second : Option Byte) (s : State) : Host.Outcome State Fault Refusal :=
  .next (code2Effect (leadD8 a) second s)

/-- CODE2, lead 0xDA (R102). -/
def execCode2DA (second : Option Byte) (s : State) : Host.Outcome State Fault Refusal :=
  .next (code2Effect leadDA second s)

/-- CODE2, lead 0xE2 and 0xE3 (R102). -/
def execCode2E2 (a : BitVec 1) (second : Option Byte) (s : State) : Host.Outcome State Fault Refusal :=
  .next (code2Effect (leadE2 a) second s)

/-- CODE3 (R103). -/
def execCode3 (a : BitVec 2) (b1 b2 : Byte) (s : State) : Host.Outcome State Fault Refusal :=
  .next (codeEffect (leadF0 a) (code3Value (leadF0 a) b1 b2) 3 s)

/-- CODE1 (R101). -/
def execCode1 (b0 : Byte) (s : State) : Host.Outcome State Fault Refusal :=
  .next (codeEffect b0 (code1Value b0) 1 s)

end Sys2Proof.Machine
end

