-- ==== Sys2Proof/Machine/CharEncode.lean ====
section
/-! DEFINITION. The encoder's stream elements ESC.NAMED, ESC.HEX, CRLF and CHAR (42_charmap_encode.md). -/

namespace Sys2Proof.Machine

/-- `Emit(CodeBytes(val))` and `k <- k + width` (R120, R126). -/
def emitCode (val : Code) (width : Nat) (s : State) : State :=
  (s.setEncoder { s.encoder with val := val, k := s.encoder.k + width }).emit (codeBytes val)

/-- Emit the Code of a Token, or raise EncodingError(k) where it has none (R122, R124, R125, R213). -/
def emitToken (t : Token) (width : Nat) (s : State) : State :=
  match reverseLookup (s.tables.ri s.encoder.v) t with
  | some val => emitCode val width s
  | none => s.raise .encodingError s.encoder.k

/-- The index of the closing brace of the group at k, into the working register j (R39, R120). -/
def setCloseIndex (body : Text) (s : State) : State :=
  s.setEncoder { s.encoder with j := s.encoder.k + body.length + 1 }

/-- ESC.NAMED (R122). -/
def escNamedEffect (body : Text) (s : State) : State :=
  emitToken (bracketGroup body) (body.length + 2) (setCloseIndex body s)

/-- ESC.HEX: the escape's value, or EncodingError(k) when the body is no hex escape (R123, R213). -/
def escHexEffect (body : Text) (s : State) : State :=
  match hexEscapeDigits body with
  | some digits => emitCode (BitVec.ofNat 24 (parseHex digits)) (body.length + 2) (setCloseIndex body s)
  | none => (setCloseIndex body s).raise .encodingError s.encoder.k

/-- ESC.NAMED (R122). -/
def execEscNamed (body : Text) (s : State) : Host.Outcome State Fault Refusal :=
  .next (escNamedEffect body s)

/-- ESC.HEX (R123). -/
def execEscHex (body : Text) (s : State) : Host.Outcome State Fault Refusal :=
  .next (escHexEffect body s)

/-- CRLF (R124, decision D16; log 19). -/
def execCrlf (s : State) : Host.Outcome State Fault Refusal :=
  .next (emitToken crlfText 2 s)

/-- CHAR (R125). -/
def execChar (c : Char) (s : State) : Host.Outcome State Fault Refusal :=
  .next (emitToken [c] 1 s)

end Sys2Proof.Machine
end

