-- ==== Sys2Proof/Machine/Expand.lean ====
section
/-! DEFINITION. The decompressor's stream elements PTR and LIT (43_decompressor.md). -/

namespace Sys2Proof.Machine

/-- Field decode of a pointer into the working registers: b0, b1, b2, len, jv (R152). -/
def ptrFields (len5 : BitVec 5) (jv : JumpIndex) (s : State) : State :=
  s.setExpander { s.expander with
    b0 := pointerByte0 len5, b1 := pointerByte1 len5 jv, b2 := pointerByte2 jv,
    len := pointerLength len5, jv := jv }

/-- The source range into the working registers: jump, start, end (R152). -/
def ptrRange (jump : Nat) (s : State) : State :=
  s.setExpander { s.expander with
    jump := jump,
    start := sourceStart s.expander.ws s.expander.i jump,
    stop := sourceStop (sourceStart s.expander.ws s.expander.i jump) s.expander.len }

/-- Expanding outcome: `Emit(FB[start..end])`, advance 3 (R153, R158). -/
def ptrCopy (s : State) : State :=
  (s.emit (memRead s.fb s.expander.start.toNat s.expander.len)).advanceI 3

/-- Pass-through outcome: emit the three bytes, log the index, advance 3 (R155, R222, decision D5; log 11). -/
def ptrPassThrough (s : State) : State :=
  ((s.emit [s.expander.b0, s.expander.b1, s.expander.b2]).setExpander
    { s.expander with ptLog := s.expander.ptLog ++ [s.expander.i] }).advanceI 3

/-- The outcome of a mapped pointer, by the range check (R152). -/
def ptrOutcome (s : State) : State :=
  if rangeOutOfBounds s.expander.start s.expander.stop s.fb.size then ptrPassThrough s else ptrCopy s

/-- PTR: fields, then UnmappedJump before the range check (R154, R220), then the range check. -/
def ptrEffect (len5 : BitVec 5) (jv : JumpIndex) (s : State) : State :=
  match jumpLookup s.tables.jtInv jv with
  | none => (ptrFields len5 jv s).raise .unmappedJump s.expander.i
  | some jump => ptrOutcome (ptrRange jump (ptrFields len5 jv s))

/-- PTR (R152 to R155). -/
def execPtr (len5 : BitVec 5) (jv : JumpIndex) (s : State) : Host.Outcome State Fault Refusal :=
  .next (ptrEffect len5 jv s)

/-- LIT: `Emit([b0])`, advance 1 (R156, R157). -/
def litEffect (b0 : Byte) (s : State) : State :=
  ((s.setExpander { s.expander with b0 := b0 }).emit [b0]).advanceI 1

/-- LIT (R156, R157). -/
def execLit (b0 : Byte) (s : State) : Host.Outcome State Fault Refusal :=
  .next (litEffect b0 s)

end Sys2Proof.Machine
end

