-- ==== Sys2Proof/Machine/Dispatch.lean ====
section
/-! DEFINITION. One arm per stream element. -/

namespace Sys2Proof.Machine

def exec (i : Instr) (s : State) : Host.Outcome State Fault Refusal :=
  match i with
  -- compressed stream (43_decompressor.md)
  | .ptr len5 jv => Sys2Proof.Machine.execPtr len5 jv s
  | .lit b0 => Sys2Proof.Machine.execLit b0 s
  -- Code stream (41_charmap_decode.md)
  | .code2D0 a second => Sys2Proof.Machine.execCode2D0 a second s
  | .code2D8 a second => Sys2Proof.Machine.execCode2D8 a second s
  | .code2DA second => Sys2Proof.Machine.execCode2DA second s
  | .code2E2 a second => Sys2Proof.Machine.execCode2E2 a second s
  | .code3 a b1 b2 => Sys2Proof.Machine.execCode3 a b1 b2 s
  | .code1 b0 => Sys2Proof.Machine.execCode1 b0 s
  -- display text (42_charmap_encode.md)
  | .escNamed body => Sys2Proof.Machine.execEscNamed body s
  | .escHex body => Sys2Proof.Machine.execEscHex body s
  | .crlf => Sys2Proof.Machine.execCrlf s
  | .char c => Sys2Proof.Machine.execChar c s

end Sys2Proof.Machine
end

