-- ==== Sys2Proof/Machine/Compress.lean ====
section
/-! DEFINITION. The companion compressor's loop body (45_compressor_companion.md; log 29). -/

namespace Sys2Proof.Machine

/-- The delimiter byte DELIM (R6). -/
def delimiter : Byte := 0xFE#8

/-- `B[i..bd)`: the candidate text at the head of what is left to compress, at most 35 bytes and up to the next
delimiter after the first byte (R193). -/
def candidate : Bytes → Bytes
  | [] => []
  | x :: xs => x :: (xs.take 34).takeWhile (· != delimiter)

/-- `(L, D)` is a match: 4 <= L <= min(35, |cand|), L <= D <= |OUT|, and OUT[p-D..p-D+L) = cand[0..L), p = |OUT|; the
bound D < JT_CAP is `bestDistance`'s (R194). -/
def isMatch (out cand : Bytes) (l d : Nat) : Bool :=
  decide (4 ≤ l) && decide (l ≤ 35) && decide (l ≤ cand.length) && decide (l ≤ d) && decide (d ≤ out.length)
    && (out.drop (out.length - d)).take l == cand.take l

/-- The least D below JT_CAP that gives a match of length l (R194, R196). -/
def bestDistance (cap : Nat) (out cand : Bytes) (l : Nat) : Option Nat :=
  (List.range cap).find? (isMatch out cand l)

/-- A match of length at most l: the greatest length first, and of that the least distance (R194, R196). -/
def bestMatchFrom (cap : Nat) (out cand : Bytes) : Nat → Option (Nat × Nat)
  | 0 => none
  | l + 1 =>
    match bestDistance cap out cand (l + 1) with
    | some d => some (l + 1, d)
    | none => bestMatchFrom cap out cand l

/-- `BestMatch(OUT, cand)` (R194, R196). -/
def bestMatch (cap : Nat) (out cand : Bytes) : Option (Nat × Nat) :=
  bestMatchFrom cap out cand (min 35 cand.length)

/-- `Emit([B[i]])`, advance 1 (R192 steps 1 and 5, R197). -/
def compressLiteral (x : Byte) (s : State) : State :=
  (s.emit [x]).setCompressor { s.compressor with i := s.compressor.i + 1 }

/-- `Emit(PointerBytes(L, j))`, advance L (R192 step 4, R195). -/
def compressPointer (l : Nat) (j : JumpIndex) (s : State) : State :=
  (s.emit (pointerBytes (BitVec.ofNat 5 (l - 4)) j)).setCompressor { s.compressor with i := s.compressor.i + l }

/-- One turn of COMPRESS's loop at the byte x, the first of the bytes left (R192). -/
def compressElement (x : Byte) (left : Bytes) (s : State) : State :=
  if x = delimiter then compressLiteral x s
  else
    match bestMatch (jumpCapacity s.tables.jt) s.out (candidate left) with
    | none => compressLiteral x s
    | some (l, d) =>
      match jumpIndexOf s.tables.jt d with
      | some j => compressPointer l j s
      | none => compressLiteral x s

end Sys2Proof.Machine
end

