-- ==== Sys2Proof/Machine/Commands.lean ====
section
/-! DEFINITION. The commands: accepting a request, the splitter's loop body, and the end of each scan (R211, R249). -/

namespace Sys2Proof.Machine

/-! ### Accepting a request: the operands are sampled and the registers of R42's table initialised -/

/-- The request is taken from its slot and the engine starts (R20, R63; log 1). A register or space that the command does
not initialise, those R42's table calls unspecified among them, keeps what it holds: DESIGN CHOICE (log 40). -/
def State.begin (p : Phase) (s : State) : State := { s with phase := p, request := none, response := none }

/-- EXPAND(FB, W, WS): `i <- 0 ; OUT <- [] ; PT_LOG <- []` (R150). b0, b1, b2, len, jv, jump, start and end keep what
they hold (log 40). -/
def beginExpand (fb w : Bytes) (ws : Nat) (s : State) : State :=
  { s.begin .expand with
    fb := memOfBytes fb, w := w, out := [], expander := { s.expander with ws := ws, i := 0, ptLog := [] } }

/-- DECODE_NEXT(B, pos, v) (R105). b0, code, w, tok and newpos keep what they hold (log 40). -/
def beginDecodeNext (b : Bytes) (pos : Nat) (v : Variant) (s : State) : State :=
  { s.begin .decodeNext with b := b, decoder := { s.decoder with v := v, pos := pos } }

/-- DECODE_WORD(B, v): `pos <- 0 ; TXT <- []` (R106). b0, code, w, tok and newpos keep what they hold (log 40). -/
def beginDecodeWord (b : Bytes) (v : Variant) (s : State) : State :=
  { s.begin .decodeWord with b := b, txt := [], decoder := { s.decoder with v := v, pos := 0 } }

/-- ENCODE(S, v, maxLen): `k <- 0 ; OUT <- []` (R120). j and val keep what they hold (log 40). -/
def beginEncode (src : Text) (v : Variant) (maxLen : Option Nat) (s : State) : State :=
  { s.begin .encode with
    src := src, out := [], encoder := { s.encoder with v := v, maxLen := maxLen, k := 0 } }

/-- SPLIT(B, delim), delim defaulting to 0xFE: `WORDS <- [ [] ]` (R180). -/
def beginSplit (b : Bytes) (delim : Option Byte) (s : State) : State :=
  { s.begin .split with b := b, splitter := { delim := delim.getD delimiter, p := 0, words := [[]] } }

/-- COMPRESS(B): `i <- 0 ; OUT <- []` (R192, R214). -/
def beginCompress (b : Bytes) (maxLen : Option Nat) (s : State) : State :=
  { s.begin .compress with b := b, out := [], compressor := { maxLen := maxLen, i := 0 } }

/-- Accept a command (R210, R211). -/
def accept (c : Command) (s : State) : State :=
  match c with
  | .expand fb w ws => beginExpand fb w ws s
  | .decodeNext b pos v => beginDecodeNext b pos v s
  | .decodeWord b v => beginDecodeWord b v s
  | .encode src v maxLen => beginEncode src v maxLen s
  | .split b delim => beginSplit b delim s
  | .compress b maxLen => beginCompress b maxLen s

/-- An idle block accepts the request there is; with none it does nothing (R223, R240). -/
def idleStep (s : State) : State :=
  match s.request with
  | some c => accept c s
  | none => s

/-! ### The splitter (R180) -/

/-- Append a byte to the last Word. -/
def appendLast (x : Byte) : List Bytes → List Bytes
  | [] => [[x]]
  | [word] => [word ++ [x]]
  | word :: words => word :: appendLast x words

/-- One turn of SPLIT's loop at the byte x: a delimiter closes the Word and opens a new one, any other byte is appended
to the last Word (R180, R182). -/
def splitByte (x : Byte) (s : State) : State :=
  s.setSplitter { s.splitter with
    words := if x = s.splitter.delim then s.splitter.words ++ [[]] else appendLast x s.splitter.words,
    p := s.splitter.p + 1 }

/-! ### The end of a scan -/

/-- EXPAND ends when i = M and returns OUT, with PT_LOG beside it (R150, R222). -/
def finishExpand (s : State) : State := s.respond (.ok (.expanded s.out s.expander.ptLog))

/-- DECODE_WORD ends when pos = |B| and returns TXT (R106). -/
def finishDecodeWord (s : State) : State := s.respond (.ok (.decodedWord s.txt))

/-- The capacity check after a complete, error-free scan (R214, R220, decision D18; log 21). -/
def checkCapacity (maxLen : Option Nat) (r : Result) (s : State) : State :=
  match maxLen with
  | some m => if m < s.out.length then s.raise .capacityError s.out.length else s.respond (.ok r)
  | none => s.respond (.ok r)

/-- ENCODE ends when k = |S|: capacity check, then OUT (R120, R214). -/
def finishEncode (s : State) : State := checkCapacity s.encoder.maxLen (.encoded s.out) s

/-- SPLIT ends when p = |B| and returns WORDS (R180). -/
def finishSplit (s : State) : State := s.respond (.ok (.splitWords s.splitter.words))

/-- COMPRESS ends when i = |B|: capacity check, then OUT (R192, R214). -/
def finishCompress (s : State) : State := checkCapacity s.compressor.maxLen (.compressed s.out) s

/-! ### The loops that scan raw bytes, without stream elements -/

/-- SPLIT: the byte at p, or the end (R180). -/
def splitStep (s : State) : State :=
  match s.b[s.splitter.p]? with
  | some x => splitByte x s
  | none => finishSplit s

/-- COMPRESS: the byte at i, or the end (R192). -/
def compressStep (s : State) : State :=
  match s.b[s.compressor.i]? with
  | some x => compressElement x (s.b.drop s.compressor.i) s
  | none => finishCompress s

end Sys2Proof.Machine
end

