-- ==== Sys2Proof/Machine/Fetch.lean ====
section
/-! DEFINITION. What the next step does: run a stream element, or a step of the command itself. -/

namespace Sys2Proof.Machine

/-- The next thing the block does. -/
inductive Fetched where
  /-- run this stream element -/
  | element (i : Instr)
  /-- a step of the command itself (accepting, ending, a raw-byte loop): its next state -/
  | command (t : State)
  deriving DecidableEq, Repr

/-- The decompressor's element at i, or the end of the scan at i = M (R150, R151). -/
def fetchExpand (s : State) : Fetched :=
  match decodeCompressed (s.w.drop s.expander.i) with
  | .ok i => .element i
  | .error _ => .command (finishExpand s)

/-- DECODE_NEXT's element at pos; with pos >= |B| BadOperand(pos) (R105, R219, decision D24; log 25). -/
def fetchDecodeNext (s : State) : Fetched :=
  match decodeCode (s.b.drop s.decoder.pos) with
  | .ok i => .element i
  | .error _ => .command (s.raise .badOperand s.decoder.pos)

/-- DECODE_WORD's element at pos, or the end of the scan at pos = |B| (R106). -/
def fetchDecodeWord (s : State) : Fetched :=
  match decodeCode (s.b.drop s.decoder.pos) with
  | .ok i => .element i
  | .error _ => .command (finishDecodeWord s)

/-- The encoder's element at k; the end of the scan at k = |S|; an unclosed group is EncodingError(k) before any
lookup (R120, R220). -/
def fetchEncode (s : State) : Fetched :=
  match decodeText (isTokenOf (s.tables.ri s.encoder.v)) (s.src.drop s.encoder.k) with
  | .ok i => .element i
  | .error .endOfStream => .command (finishEncode s)
  | .error .unclosedGroup => .command (s.raise .encodingError s.encoder.k)

/-- Fetch, by the running engine (R20). -/
def fetch (s : State) : Fetched :=
  match s.phase with
  | .idle => .command (idleStep s)
  | .expand => fetchExpand s
  | .decodeNext => fetchDecodeNext s
  | .decodeWord => fetchDecodeWord s
  | .encode => fetchEncode s
  | .split => .command (splitStep s)
  | .compress => .command (compressStep s)

/-- Put a stream where its engine fetches next: the engine runs, its scan index at the stream's first unit. -/
def State.withStream (s : State) : StreamWords → State
  | .compressed bytes => { s with phase := .expand, w := bytes, expander := { s.expander with i := 0 } }
  | .code bytes => { s with phase := .decodeWord, b := bytes, decoder := { s.decoder with pos := 0 } }
  | .text chars => { s with phase := .encode, src := chars, encoder := { s.encoder with k := 0 } }

end Sys2Proof.Machine
end

