-- ==== Sys2Proof/Machine/Step.lean ====
section
/-! DEFINITION. One step of the block (R249). -/

namespace Sys2Proof.Machine

/-- One step: the stream element fetched, or the command's own step. -/
def step (s : State) : Host.Outcome State Fault Refusal :=
  match fetch s with
  | .element i => exec i s
  | .command t => .next t

/-- The state whose next step runs the element of an opcode-table word (log 31). -/
def State.withFetchWord (s : State) (nbits w : Nat) : State := s.withStream (tableWords nbits w)

end Sys2Proof.Machine
end

