-- ==== Sys2Proof/WellFormed.lean ====
section
/-! DEFINITION. Which stream elements the three encodings can spell. -/

namespace Sys2Proof

/-- CODE1: a CODE2_LEAD byte is never CODE1 (R101). -/
def code1Ok (b0 : Byte) : Bool := !isCode2Lead b0

/-- A bracket group ends at its first closing brace, so its body holds none (R81, R121). -/
def bodyOk (body : Text) : Bool := !body.contains rbrace

/-- CHAR: not the opening brace, which starts an ESC element (R81, R121). -/
def charOk (c : Char) : Bool := c != lbrace

/-- The elements the encodings of 30_encoding.md can spell. A pointer, a literal, a CODE2, a CODE3 and a CRLF can be
spelled with every operand value. -/
def Instr.wellFormed : Instr → Bool
  | .ptr _ _ => true
  | .lit _ => true
  | .code2D0 _ _ => true
  | .code2D8 _ _ => true
  | .code2DA _ => true
  | .code2E2 _ _ => true
  | .code3 _ _ _ => true
  | .code1 b0 => code1Ok b0
  | .escNamed body => bodyOk body
  | .escHex body => bodyOk body
  | .crlf => true
  | .char c => charOk c

end Sys2Proof
end

