-- ==== Sys2Proof/Safety.lean ====
section
/-! DEFINITION. The terms the claims use: runs of commands, the state invariant, and the spec's named hypotheses on
tables (R24). -/

namespace Sys2Proof.Machine

/-! ### Runs -/

/-- A step is safe when it gives a next state: no fault, no refusal. -/
def Safe (s : State) : Prop := ∃ t, step s = .next t

/-- The next state of a safe step. -/
def advance (s : State) : State :=
  match step s with
  | .next t => t
  | .fault _ => s
  | .refused _ => s

/-- The state after n steps. -/
def runFor : Nat → State → State
  | 0, s => s
  | n + 1, s => runFor n (advance s)

/-- Command c, requested of s, ends with response r: after some steps the request has been accepted, the block is idle
and r is its response (R210, R212). -/
def Completes (c : Command) (s : State) (r : Response) : Prop :=
  ∃ n, (runFor n (s.submit c)).phase = .idle ∧ (runFor n (s.submit c)).request = none
    ∧ (runFor n (s.submit c)).response = some r

/-- The length of the sequence a command scans (R249). -/
def inputLength : Command → Nat
  | .expand _ w _ => w.length
  | .decodeNext b _ _ => b.length
  | .decodeWord b _ => b.length
  | .encode src _ _ => src.length
  | .split b _ => b.length
  | .compress b _ => b.length

/-- The responses a command can end with: its result, or an error that R211's table lists for it, with the info of
R215's table. -/
def PossibleResponse : Command → Response → Prop
  | .expand _ w _, r => (∃ out log, r = .ok (.expanded out log)) ∨ ∃ i, i < w.length ∧ r = .err .unmappedJump i
  | .decodeNext b pos _, r =>
    (∃ tok newpos, r = .ok (.decodedNext tok newpos)) ∨ (pos + 1 = b.length ∧ r = .err .truncatedCode pos)
      ∨ (b.length ≤ pos ∧ r = .err .badOperand pos)
  | .decodeWord b _, r =>
    (∃ txt, r = .ok (.decodedWord txt)) ∨ ∃ pos, pos + 1 = b.length ∧ r = .err .truncatedCode pos
  | .encode src _ maxLen, r =>
    (∃ out, (∀ m, maxLen = some m → out.length ≤ m) ∧ r = .ok (.encoded out))
      ∨ (∃ k, k < src.length ∧ r = .err .encodingError k)
      ∨ ∃ m n, maxLen = some m ∧ m < n ∧ r = .err .capacityError n
  | .split _ _, r => ∃ words, r = .ok (.splitWords words)
  | .compress _ maxLen, r =>
    (∃ out, (∀ m, maxLen = some m → out.length ≤ m) ∧ r = .ok (.compressed out))
      ∨ ∃ m n, maxLen = some m ∧ m < n ∧ r = .err .capacityError n

/-! ### What an element leaves alone -/

/-- The tables, the operand spaces and the request slot are as before (R27, R35, R50, R244). -/
def SameInputs (s t : State) : Prop :=
  t.tables = s.tables ∧ t.fb = s.fb ∧ t.w = s.w ∧ t.b = s.b ∧ t.src = s.src ∧ t.request = s.request

/-- The command goes on: phase, response and status word are as before. -/
def SameCommand (s t : State) : Prop :=
  t.phase = s.phase ∧ t.response = s.response ∧ t.status = s.status ∧ t.info = s.info

/-- Every byte of every byte space reads as before, but for the bytes past the end of OUT. -/
def SameBytesButAppended (s t : State) : Prop :=
  (∀ a, t.byteAt a .w = s.byteAt a .w ∧ t.byteAt a .fb = s.byteAt a .fb ∧ t.byteAt a .b = s.byteAt a .b)
    ∧ ∀ a, a < s.out.length → t.byteAt a .out = s.byteAt a .out

/-- The command ended with the error e at info: the response is Err(e, info), nothing that was emitted is left, the
block is idle (R216, R223, decision D17; log 20). -/
def Raised (e : Status) (info : Nat) (t : State) : Prop :=
  t.response = some (.err e info) ∧ t.status = e ∧ t.info = some info ∧ t.phase = .idle
    ∧ t.out = [] ∧ t.txt = [] ∧ t.expander.ptLog = []

/-! ### The invariant -/

/-- The tables are as initialisation leaves them: canonical maps, RI built from CM, JT coherent with JTinv
(R22, R26, R32, R241). -/
def tablesWf (t : Tables) : Bool :=
  charMapWf t.cm0 && charMapWf t.cm1 && t.ri0 == reverseBuild t.cm0 && t.ri1 == reverseBuild t.cm1
    && jumpCoherent t.jt t.jtInv

/-- The running engine's scan index is within its input (R37 to R39, R249). -/
def scanInBounds (s : State) : Prop :=
  match s.phase with
  | .idle => True
  | .expand => s.expander.i ≤ s.w.length
  | .decodeNext => True
  | .decodeWord => s.decoder.pos ≤ s.b.length
  | .encode => s.encoder.k ≤ s.src.length
  | .split => s.splitter.p ≤ s.b.length
  | .compress => s.compressor.i ≤ s.b.length

/-- The state invariant. -/
structure Inv (s : State) : Prop where
  /-- the full buffer is in canonical form (log 7) -/
  buffer : s.fb.wf = true
  /-- the tables are as initialisation leaves them -/
  tables : tablesWf s.tables = true
  /-- the scan index is within the input -/
  scan : scanInBounds s
  /-- STATUS and INFO are those of the response (R212) -/
  status : ∀ r, s.response = some r → s.status = r.status ∧ s.info = r.info
  /-- while a command runs there is neither a waiting request nor a response (R20, R210) -/
  running : s.phase ≠ .idle → s.request = none ∧ s.response = none

/-! ### The named hypotheses on a CharacterMap (R24) -/

/-- A well-formed Code: its bytes at natural width are read back as one Code (WF1). -/
def wellFormedCode (c : Code) : Bool :=
  if c.toNat < 0x100 then !isCode2Lead (c.extractLsb' 0 8) && !isPtrLead (c.extractLsb' 0 8)
  else if c.toNat < 0x10000 then isCode2Lead (c.extractLsb' 8 8)
  else isPtrLead (c.extractLsb' 16 8)

/-- A single character other than the opening brace, CR LF, or a bracket group (WF2). -/
def wellFormedToken (t : Token) : Bool :=
  (t.length == 1 && t != [lbrace]) || t == crlfText || (groupOf t).isSome

/-- No bracket group whose body is a hex escape (WF3). -/
def notHexToken (t : Token) : Bool :=
  match groupOf t with
  | some body => !isHexEscape body
  | none => true

/-- WF1 to WF5 of R24: hypotheses of the round-trip laws, not facts about the hardware's tables. -/
def roundTripWf (m : CharMap) : Bool :=
  m.all (fun e => wellFormedCode e.1 && wellFormedToken e.2 && notHexToken e.2)
    && hasToken m crlfText && !hasToken m [charCR]

/-- The Code of a Code-stream element that is not truncated (R101 to R103). -/
def elementCode : Instr → Option Code
  | .code1 b0 => some (code1Value b0)
  | .code2D0 a (some b1) => some (code2Value (leadD0 a) b1)
  | .code2D8 a (some b1) => some (code2Value (leadD8 a) b1)
  | .code2DA (some b1) => some (code2Value leadDA b1)
  | .code2E2 a (some b1) => some (code2Value (leadE2 a) b1)
  | .code3 a b1 b2 => some (code3Value (leadF0 a) b1 b2)
  | _ => none

/-- The Codes of the elements of a Word, in scan order, reading at most n elements (R100). -/
def codesOf : Nat → Bytes → List Code
  | 0, _ => []
  | n + 1, bytes =>
    match decodeCode bytes with
    | .error _ => []
    | .ok i => (elementCode i).toList ++ codesOf n (bytes.drop i.width)

/-- Every defined Code among the elements of a Word is canonical: RI of its Token is the Code itself (R131 b). -/
def canonicalWord (m : CharMap) (ri : ReverseIndex) (bytes : Bytes) : Bool :=
  (codesOf bytes.length bytes).all fun c =>
    match charMapLookup m c with
    | some t => reverseLookup ri t == some c
    | none => true

/-! ### Elements -/

/-- One of the four CODE2 rows (R102). -/
def isCode2 : Instr → Bool
  | .code2D0 _ _ => true
  | .code2D8 _ _ => true
  | .code2DA _ => true
  | .code2E2 _ _ => true
  | _ => false

/-- The registers a Code-stream element leaves: its Code, its width, the looked-up Token, and the index just after it
(R101 to R104). -/
def CodeResult (code : Nat) (w : Nat) (s t : State) : Prop :=
  t.decoder.code.toNat = code ∧ t.decoder.w = w
    ∧ t.decoder.tok = lookupToken (s.tables.cm s.decoder.v) (BitVec.ofNat 24 code) w
    ∧ t.decoder.newpos = s.decoder.pos + w ∧ t.decoder.pos = s.decoder.pos + w

/-- An element of display text emitted val: its bytes at the end of OUT, `k` past the element, the command going on
(R120, R126). -/
def Emitted (val : Code) (width : Nat) (s t : State) : Prop :=
  t.out = s.out ++ codeBytes val ∧ t.encoder.val = val ∧ t.encoder.k = s.encoder.k + width ∧ SameCommand s t

/-- The hexadecimal digits of either case (R123). -/
def hexDigitChars : Text :=
  ['0', '1', '2', '3', '4', '5', '6', '7', '8', '9', 'a', 'b', 'c', 'd', 'e', 'f', 'A', 'B', 'C', 'D', 'E', 'F']

/-- The upper-case hexadecimal digits (R12). -/
def upperHexChars : Text :=
  ['0', '1', '2', '3', '4', '5', '6', '7', '8', '9', 'A', 'B', 'C', 'D', 'E', 'F']

/-! ### The companion compressor -/

/-- (l, d) is a match of the candidate in the output so far (R194): 4 <= L <= min(35, |cand|), L <= D <= p, D < JT_CAP
and OUT[p-D..p-D+L) = cand[0..L), p = |OUT|. -/
def MatchAt (cap : Nat) (out cand : Bytes) (l d : Nat) : Prop :=
  4 ≤ l ∧ l ≤ min 35 cand.length ∧ l ≤ d ∧ d ≤ out.length ∧ d < cap
    ∧ ∀ n, n < l → out[out.length - d + n]? = cand[n]?

/-! ### Streams -/

/-- The first n units of a stream. -/
def takeWords (n : Nat) : StreamWords → StreamWords
  | .compressed bytes => .compressed (bytes.take n)
  | .code bytes => .code (bytes.take n)
  | .text chars => .text (chars.take n)

end Sys2Proof.Machine
end

