-- ==== Sys2Proof/Certificates/Slice0/Obligations.lean ====
section
/-! DEFINITION. The statements for the provers. -/

open Sys2Proof Sys2Proof.Machine

/-! ### Encodings -/

/-- Words written out from 30_encoding.md and 95_test_vectors.md decode to their elements. That a pointer lead with
one byte after it is LIT is decision D4 (log 10); that a CODE2 lead alone is a CODE2 element, its second byte absent,
is log 32. -/
def Obligations.SampleWordsDecode : Prop :=
  decodeCompressed [0xF1#8, 0x45#8, 0x10#8] = .ok (.ptr 10#5 1296#13)
    ∧ decodeCompressed [0xF0#8, 0x20#8, 0x07#8, 0x0B#8] = .ok (.ptr 1#5 7#13)
    ∧ decodeCompressed [0xF3#8, 0xFF#8, 0xFD#8] = .ok (.ptr 31#5 8189#13)
    ∧ decodeCompressed [0xF1#8, 0x00#8] = .ok (.lit 0xF1#8)
    ∧ decodeCompressed [0xFE#8, 0x0B#8, 0x0B#8] = .ok (.lit 0xFE#8)
    ∧ decodeCode [0xD0#8, 0x05#8] = .ok (.code2D0 0#3 (some 0x05#8))
    ∧ decodeCode [0xD9#8, 0xFE#8] = .ok (.code2D8 1#1 (some 0xFE#8))
    ∧ decodeCode [0xDA#8, 0xFF#8, 0x0A#8] = .ok (.code2DA (some 0xFF#8))
    ∧ decodeCode [0xE3#8, 0x01#8] = .ok (.code2E2 1#1 (some 0x01#8))
    ∧ decodeCode [0xD0#8] = .ok (.code2D0 0#3 none)
    ∧ decodeCode [0xF2#8, 0x01#8, 0x02#8] = .ok (.code3 2#2 0x01#8 0x02#8)
    ∧ decodeCode [0xF2#8, 0x01#8] = .ok (.code1 0xF2#8)
    ∧ decodeCode [0xDB#8, 0x0A#8] = .ok (.code1 0xDB#8)
    ∧ decodeText (fun t => t == bracketGroup ['E', 'N', 'D']) (bracketGroup ['E', 'N', 'D']) = .ok (.escNamed ['E', 'N', 'D'])
    ∧ decodeText (fun _ => false) (bracketGroup ['0', 'x', '4', '1'] ++ ['B']) = .ok (.escHex ['0', 'x', '4', '1'])
    ∧ decodeText (fun _ => false) [charCR, charLF, 'B'] = .ok .crlf
    ∧ decodeText (fun _ => false) [charCR, charCR, charLF] = .ok (.char charCR)

/-- R75: the three bytes of a pointer, and decoding them gives back the length and the index. -/
def Obligations.PointerBytesAreWireExact : Prop :=
  ∀ length jumpTableValue : Nat, 4 ≤ length → length ≤ 35 →
    (pointerBytes (BitVec.ofNat 5 (length - 4)) (BitVec.ofNat 13 jumpTableValue)).map BitVec.toNat
        = [0xF0 ||| (((length - 4) &&& 0x18) >>> 3),
           (((length - 4) &&& 0x07) <<< 5) ||| ((jumpTableValue &&& 0x1F00) >>> 8), jumpTableValue &&& 0xFF]
      ∧ (jumpTableValue < 8192 →
          ∃ len5 jv, decodeCompressed
              (pointerBytes (BitVec.ofNat 5 (length - 4)) (BitVec.ofNat 13 jumpTableValue)) = .ok (.ptr len5 jv)
            ∧ pointerLength len5 = length ∧ jv.toNat = jumpTableValue)

/-- R73: the length of a pointer's bytes, its field `P[17:13]`, its range, its extremes, and that every length is
reachable; and the jump index of R74, whose arithmetic the spec derives from R75. -/
def Obligations.PointerFieldsOfBytes : Prop :=
  (∀ b0 b1 b2 : Byte,
    pointerLength (pointerLen5 b0 b1) = ((b0.toNat &&& 0x03) <<< 3) + ((b1.toNat &&& 0xE0) >>> 5) + 4
      ∧ pointerLength (pointerLen5 b0 b1) = (((b0.toNat &&& 0x03) <<< 3) ||| ((b1.toNat &&& 0xE0) >>> 5)) + 4
      ∧ pointerLength (pointerLen5 b0 b1)
          = (b0.toNat * 65536 + b1.toNat * 256 + b2.toNat) / 2 ^ 13 % 2 ^ 5 + 4
      ∧ 4 ≤ pointerLength (pointerLen5 b0 b1) ∧ pointerLength (pointerLen5 b0 b1) ≤ 35
      ∧ (isPtrLead b0 = true →
          (pointerLength (pointerLen5 b0 b1) = 4 ↔ b0 = 0xF0#8 ∧ b1.toNat / 32 = 0)
            ∧ (pointerLength (pointerLen5 b0 b1) = 35 ↔ b0 = 0xF3#8 ∧ b1.toNat / 32 = 7))
      ∧ (pointerJv b1 b2).toNat = ((b1.toNat &&& 0x1F) <<< 8) ||| b2.toNat)
    ∧ ∀ length, 4 ≤ length → length ≤ 35 →
        ∃ b0 b1 : Byte, isPtrLead b0 = true ∧ pointerLength (pointerLen5 b0 b1) = length

/-- Decoding the encoding of a well-formed element gives the element back, every operand at every value. A bracket
group is ESC.NAMED or ESC.HEX as it is a Token or not. -/
def Obligations.DecodeEncodeRoundTrip : Prop :=
  ∀ (isToken : Text → Bool) (i : Instr), i.wellFormed = true →
    (∀ body, i = .escNamed body → isToken (bracketGroup body) = true) →
    (∀ body, i = .escHex body → isToken (bracketGroup body) = false) →
    decode isToken (encode i) = .ok i

/-- What the decoder reads is a well-formed element, and exactly the units at the head of the stream that encode it
(R70: an element is consumed whole). -/
def Obligations.DecodedElementIsHeadOfStream : Prop :=
  ∀ (isToken : Text → Bool) (ws : StreamWords) (i : Instr), decode isToken ws = .ok i →
    i.wellFormed = true ∧ encode i = takeWords i.width ws ∧ 0 < i.width ∧ i.width ≤ ws.length

/-- R151: PTR or LIT. That a lead with fewer than two bytes after it is LIT is decision D4 (log 10). -/
def Obligations.CompressedStreamClassification : Prop :=
  ∀ (s : State) (b0 : Byte), s.phase = .expand → s.w[s.expander.i]? = some b0 →
    ((0xF0 ≤ b0.toNat ∧ b0.toNat ≤ 0xF3 ∧ s.expander.i + 2 < s.w.length) →
        ∃ b1 b2, s.w[s.expander.i + 1]? = some b1 ∧ s.w[s.expander.i + 2]? = some b2
          ∧ fetch s = .element (.ptr (pointerLen5 b0 b1) (pointerJv b1 b2)))
      ∧ (¬ (0xF0 ≤ b0.toNat ∧ b0.toNat ≤ 0xF3 ∧ s.expander.i + 2 < s.w.length) → fetch s = .element (.lit b0))

/-- R100: CODE2, CODE3 or CODE1, in this order. -/
def Obligations.CodeStreamClassification : Prop :=
  ∀ (s : State) (b0 : Byte), s.phase = .decodeNext ∨ s.phase = .decodeWord → s.b[s.decoder.pos]? = some b0 →
    (((0xD0 ≤ b0.toNat ∧ b0.toNat ≤ 0xDA) ∨ b0 = 0xE2#8 ∨ b0 = 0xE3#8) →
        ∃ i, fetch s = .element i ∧ isCode2 i = true ∧ encode i = .code ((s.b.drop s.decoder.pos).take 2))
      ∧ ((0xF0 ≤ b0.toNat ∧ b0.toNat ≤ 0xF3 ∧ s.decoder.pos + 2 < s.b.length) →
        ∃ a b1 b2, leadF0 a = b0 ∧ s.b[s.decoder.pos + 1]? = some b1 ∧ s.b[s.decoder.pos + 2]? = some b2
          ∧ fetch s = .element (.code3 a b1 b2))
      ∧ (¬ ((0xD0 ≤ b0.toNat ∧ b0.toNat ≤ 0xDA) ∨ b0 = 0xE2#8 ∨ b0 = 0xE3#8) →
          ¬ (0xF0 ≤ b0.toNat ∧ b0.toNat ≤ 0xF3 ∧ s.decoder.pos + 2 < s.b.length) →
          fetch s = .element (.code1 b0))

/-- R121, with R122 for the choice between the two ESC forms and R127 for the group with no closing brace. Where a
group ends, and what an unclosed one does, is decision D14 (log 17). -/
def Obligations.TextClassification : Prop :=
  ∀ (s : State) (c : Char), s.phase = .encode → s.src[s.encoder.k]? = some c →
    (c = lbrace →
        (∀ body rest, s.src.drop (s.encoder.k + 1) = body ++ rbrace :: rest → rbrace ∉ body →
          (reverseLookup (s.tables.ri s.encoder.v) (bracketGroup body) ≠ none → fetch s = .element (.escNamed body))
            ∧ (reverseLookup (s.tables.ri s.encoder.v) (bracketGroup body) = none →
                fetch s = .element (.escHex body)))
        ∧ (rbrace ∉ s.src.drop (s.encoder.k + 1) →
            ∃ t, step s = .next t ∧ Raised .encodingError s.encoder.k t))
      ∧ (c = charCR → s.src[s.encoder.k + 1]? = some charLF → fetch s = .element .crlf)
      ∧ (c ≠ lbrace → ¬ (c = charCR ∧ s.src[s.encoder.k + 1]? = some charLF) → fetch s = .element (.char c))

/-! ### Decompressor -/

/-- R152: the fields of a pointer, whatever its outcome; the source range of a mapped one, and when it is out of
bounds: then, and only then, PT_LOG changes, which is decision D20 (log 22). That the fields stay in the registers
after UnmappedJump is log 38. -/
def Obligations.PtrFieldsAndRange : Prop :=
  ∀ (s : State) (len5 : BitVec 5) (jv : JumpIndex),
    ∃ t, exec (.ptr len5 jv) s = .next t
      ∧ [t.expander.b0, t.expander.b1, t.expander.b2] = pointerBytes len5 jv
      ∧ t.expander.len = ((t.expander.b0.toNat &&& 0x03) <<< 3) + ((t.expander.b1.toNat &&& 0xE0) >>> 5) + 4
      ∧ t.expander.jv.toNat = ((t.expander.b1.toNat &&& 0x1F) <<< 8) ||| t.expander.b2.toNat
      ∧ ∀ jump, jumpLookup s.tables.jtInv t.expander.jv = some jump →
          t.expander.jump = jump
            ∧ t.expander.start = (s.expander.ws : Int) + (s.expander.i : Int) - (jump : Int)
            ∧ t.expander.stop = t.expander.start + (t.expander.len : Int) - 1
            ∧ (t.expander.ptLog ≠ s.expander.ptLog ↔ t.expander.start < 0 ∨ (s.fb.size : Int) ≤ t.expander.stop)

/-- R153: a mapped pointer whose range is in bounds appends FB[start..end] and advances 3. -/
def Obligations.PtrExpandsFromFullBuffer : Prop :=
  ∀ (s : State) (len5 : BitVec 5) (jv : JumpIndex) (jump start : Nat), jumpLookup s.tables.jtInv jv = some jump →
    (start : Int) = (s.expander.ws : Int) + (s.expander.i : Int) - (jump : Int) →
    start + pointerLength len5 ≤ s.fb.size →
    ∃ t, exec (.ptr len5 jv) s = .next t
      ∧ t.out = s.out ++ memRead s.fb start (pointerLength len5)
      ∧ (∀ n, n < pointerLength len5 → t.out[s.out.length + n]? = memRead? s.fb (start + n))
      ∧ t.out.length = s.out.length + pointerLength len5
      ∧ t.expander.i = s.expander.i + 3 ∧ t.expander.ptLog = s.expander.ptLog ∧ SameCommand s t

/-- R155: a mapped pointer whose range is out of bounds is copied through, logged, and the scan advances 3. The
advance is decision D5 (log 11), the log decision D20 (log 22). -/
def Obligations.PtrPassesThrough : Prop :=
  ∀ (s : State) (len5 : BitVec 5) (jv : JumpIndex) (jump : Nat), jumpLookup s.tables.jtInv jv = some jump →
    ((s.expander.ws : Int) + (s.expander.i : Int) - (jump : Int) < 0
      ∨ (s.fb.size : Int) ≤ (s.expander.ws : Int) + (s.expander.i : Int) - (jump : Int)
          + (pointerLength len5 : Int) - 1) →
    ∃ t, exec (.ptr len5 jv) s = .next t
      ∧ t.out = s.out ++ pointerBytes len5 jv ∧ t.expander.ptLog = s.expander.ptLog ++ [s.expander.i]
      ∧ t.expander.i = s.expander.i + 3 ∧ SameCommand s t

/-- R154, R218: an unmapped pointer raises UnmappedJump(i), whatever its range: decision D6 (log 12). -/
def Obligations.PtrUnmappedRaises : Prop :=
  ∀ (s : State) (len5 : BitVec 5) (jv : JumpIndex), jumpLookup s.tables.jtInv jv = none →
    ∃ t, exec (.ptr len5 jv) s = .next t ∧ Raised .unmappedJump s.expander.i t ∧ SameInputs s t
      ∧ t.decoder = s.decoder ∧ t.encoder = s.encoder ∧ t.splitter = s.splitter ∧ t.compressor = s.compressor

/-- R156: a literal is copied and the scan advances 1. For a pointer lead near the window's end the same rule is R157,
decision D4 (log 10). -/
def Obligations.LitCopiesByte : Prop :=
  ∀ (s : State) (b0 : Byte),
    ∃ t, exec (.lit b0) s = .next t ∧ t.out = s.out ++ [b0] ∧ t.expander.i = s.expander.i + 1
      ∧ t.expander.b0 = b0 ∧ SameCommand s t

/-- R157: with fewer than two bytes after it, a byte is a literal whatever its value, a pointer lead too: decision D4
(log 10). -/
def Obligations.ShortPointerLeadIsLiteral : Prop :=
  ∀ (s : State) (b0 : Byte), s.phase = .expand → s.w[s.expander.i]? = some b0 →
    s.w.length ≤ s.expander.i + 2 →
    ∃ t, step s = .next t ∧ t.out = s.out ++ [b0] ∧ t.expander.i = s.expander.i + 1 ∧ SameCommand s t

/-- What PTR (mapped) and LIT leave unchanged: everything but OUT's end and the decompressor's working registers; of
these a literal writes i and b0 alone, and neither writes WS. -/
def Obligations.CompressedElementsFrame : Prop :=
  ∀ (s t : State) (i : Instr),
    ((∃ len5 jv jump, i = .ptr len5 jv ∧ jumpLookup s.tables.jtInv jv = some jump) ∨ ∃ b0, i = .lit b0) →
    exec i s = .next t →
    SameInputs s t ∧ SameCommand s t ∧ SameBytesButAppended s t ∧ t.txt = s.txt
      ∧ t.decoder = s.decoder ∧ t.encoder = s.encoder ∧ t.splitter = s.splitter ∧ t.compressor = s.compressor
      ∧ t.expander.ws = s.expander.ws
      ∧ (∀ b0, i = .lit b0 → t.expander = { s.expander with i := s.expander.i + 1, b0 := b0 })

/-! ### Decoder -/

/-- R101: CODE1. -/
def Obligations.Code1LooksUp : Prop :=
  ∀ (s : State) (b0 : Byte),
    ∃ t, exec (.code1 b0) s = .next t ∧ CodeResult b0.toNat 1 s t ∧ t.decoder.b0 = b0

/-- R102: CODE2, every row, with its second byte and without; TruncatedCode is decision D10 (log 13),
and that it leaves the lead in b0 is log 38. -/
def Obligations.Code2LooksUpOrTruncates : Prop :=
  ∀ (s : State) (i : Instr) (lead : Byte) (second : Option Byte), isCode2 i = true →
    encode i = .code (lead :: second.toList) →
    (∀ b1, second = some b1 →
        ∃ t, exec i s = .next t ∧ CodeResult (lead.toNat * 256 + b1.toNat) 2 s t ∧ t.decoder.b0 = lead)
      ∧ (second = none → ∃ t, exec i s = .next t ∧ Raised .truncatedCode s.decoder.pos t ∧ SameInputs s t
          ∧ t.decoder = { s.decoder with b0 := lead } ∧ t.expander = { s.expander with ptLog := [] }
          ∧ t.encoder = s.encoder ∧ t.splitter = s.splitter ∧ t.compressor = s.compressor)

/-- R103: CODE3. -/
def Obligations.Code3LooksUp : Prop :=
  ∀ (s : State) (a : BitVec 2) (b1 b2 : Byte),
    ∃ t, exec (.code3 a b1 b2) s = .next t
      ∧ CodeResult ((0xF0 + a.toNat) * 65536 + b1.toNat * 256 + b2.toNat) 3 s t ∧ t.decoder.b0.toNat = 0xF0 + a.toNat

/-- R105: in DECODE_NEXT an element ends the command with (tok, newpos), as the response of log 1. -/
def Obligations.DecodeNextDeliversToken : Prop :=
  ∀ (s : State) (i : Instr) (code : Code), s.phase = .decodeNext → elementCode i = some code →
    ∃ t, exec i s = .next t
      ∧ t.response = some (.ok (.decodedNext (lookupToken (s.tables.cm s.decoder.v) code i.width)
          (s.decoder.pos + i.width)))
      ∧ t.status = .ok ∧ t.phase = .idle ∧ t.txt = s.txt

/-- R106: in DECODE_WORD an element's Token is emitted and the scan moves on. -/
def Obligations.DecodeWordEmitsToken : Prop :=
  ∀ (s : State) (i : Instr) (code : Code), s.phase = .decodeWord → elementCode i = some code →
    ∃ t, exec i s = .next t ∧ t.txt = s.txt ++ lookupToken (s.tables.cm s.decoder.v) code i.width
      ∧ t.decoder.pos = s.decoder.pos + i.width ∧ SameCommand s t

/-- What a Code-stream element that is not truncated leaves unchanged: every byte space (it stores no byte), the other
engines' registers, the variant select, and the text already emitted. -/
def Obligations.CodeElementsFrame : Prop :=
  ∀ (s t : State) (i : Instr) (code : Code), elementCode i = some code → exec i s = .next t →
    SameInputs s t ∧ (∀ a sp, t.byteAt a sp = s.byteAt a sp)
      ∧ (∀ a, a < s.txt.length → t.charAt a .txt = s.charAt a .txt)
      ∧ t.decoder.v = s.decoder.v ∧ t.expander = s.expander ∧ t.encoder = s.encoder
      ∧ t.splitter = s.splitter ∧ t.compressor = s.compressor
      ∧ (s.phase ≠ .decodeNext → SameCommand s t)

/-- R83, R104: a known Code gives its Token, an unknown one the hex escape with 2w digits of its value, upper case by
decision D11 (log 14). -/
def Obligations.LookupFallsBackToHexEscape : Prop :=
  ∀ (m : CharMap) (code : Code) (w : Nat), code.toNat < 256 ^ w →
    (∀ t, charMapLookup m code = some t → lookupToken m code w = t)
      ∧ (charMapLookup m code = none →
          ∃ digits, lookupToken m code w = bracketGroup ('0' :: 'x' :: digits) ∧ digits.length = 2 * w
            ∧ (∀ c ∈ digits, c ∈ upperHexChars) ∧ parseHex digits = code.toNat)

/-! ### Encoder -/

/-- R122: a bracket group is first looked up in the reverse index; where it is found, its Code is emitted and the
whole group consumed. That the group ends at its first closing brace, whatever opening braces it holds, is decision
D14 (log 17). -/
def Obligations.EscNamedEmitsTokenCode : Prop :=
  ∀ (s : State) (body rest : Text) (val : Code),
    reverseLookup (s.tables.ri s.encoder.v) (bracketGroup body) = some val →
    (rbrace ∉ body →
        decodeText (isTokenOf (s.tables.ri s.encoder.v)) (bracketGroup body ++ rest) = .ok (.escNamed body))
      ∧ ∃ t, exec (.escNamed body) s = .next t ∧ Emitted val (bracketGroup body).length s t
          ∧ t.encoder.j = s.encoder.k + body.length + 1

/-- R123: a hex escape emits its value; any other body raises EncodingError(k). Which bodies are hex escapes is
decision D12 (log 15). -/
def Obligations.EscHexEmitsValueOrFails : Prop :=
  ∀ (s : State) (body : Text),
    (∀ digits, body = '0' :: 'x' :: digits → 1 ≤ digits.length → digits.length ≤ 6 →
        (∀ c ∈ digits, c ∈ hexDigitChars) →
        ∃ t val, exec (.escHex body) s = .next t ∧ val.toNat = parseHex digits
          ∧ Emitted val (body.length + 2) s t ∧ t.encoder.j = s.encoder.k + body.length + 1)
      ∧ ((∀ digits, body = '0' :: 'x' :: digits → 1 ≤ digits.length → digits.length ≤ 6 →
            ¬ ∀ c ∈ digits, c ∈ hexDigitChars) →
        ∃ t, exec (.escHex body) s = .next t ∧ Raised .encodingError s.encoder.k t)

/-- R124: CR LF emits its Token's Code, or raises EncodingError(k) when the Token is not defined (decision D16, log
19). -/
def Obligations.CrlfEmitsTokenCode : Prop :=
  ∀ s : State,
    (∀ val, reverseLookup (s.tables.ri s.encoder.v) [charCR, charLF] = some val →
        ∃ t, exec .crlf s = .next t ∧ Emitted val 2 s t)
      ∧ (reverseLookup (s.tables.ri s.encoder.v) [charCR, charLF] = none →
        ∃ t, exec .crlf s = .next t ∧ Raised .encodingError s.encoder.k t)

/-- R125: a character emits the Code of its one-character Token, or raises EncodingError(k), which is the error response of
R216 with the output discarded (decision D17, log 20). -/
def Obligations.CharEmitsTokenCode : Prop :=
  ∀ (s : State) (c : Char),
    (∀ val, reverseLookup (s.tables.ri s.encoder.v) [c] = some val →
        ∃ t, exec (.char c) s = .next t ∧ Emitted val 1 s t)
      ∧ (reverseLookup (s.tables.ri s.encoder.v) [c] = none →
        ∃ t, exec (.char c) s = .next t ∧ Raised .encodingError s.encoder.k t)

/-- R126: the bytes of a Code value, by magnitude, big-endian, the whole top byte kept (decision D13, log 16). -/
def Obligations.CodeBytesByMagnitude : Prop :=
  ∀ val : Code,
    (codeBytes val).map BitVec.toNat =
      if val.toNat < 256 then [val.toNat]
      else if val.toNat < 65536 then [val.toNat >>> 8, val.toNat &&& 0xFF]
      else [(val.toNat >>> 16) &&& 0xFF, (val.toNat >>> 8) &&& 0xFF, val.toNat &&& 0xFF]

/-- R131 (d), a law the spec derives: the fallback Token of a Code of natural width w is a bracket group whose body,
run as ESC.HEX, emits the w bytes of the Code. -/
def Obligations.UnknownCodeReencodes : Prop :=
  ∀ (s : State) (code : Code) (w : Nat),
    (w = 1 ∧ code.toNat < 0x100) ∨ (w = 2 ∧ 0x100 ≤ code.toNat ∧ code.toNat < 0x10000)
      ∨ (w = 3 ∧ 0x10000 ≤ code.toNat) →
    ∃ body t, fallbackToken code w = bracketGroup body ∧ rbrace ∉ body ∧ exec (.escHex body) s = .next t
      ∧ t.out = s.out ++ codeBytes code ∧ (codeBytes code).length = w ∧ t.encoder.k = s.encoder.k + 2 * w + 4

/-- What a text element leaves unchanged. One that raises leaves no output (R216); one that does not only appends to
OUT and writes val, k and, for a bracket group, j. -/
def Obligations.TextElementsFrame : Prop :=
  ∀ (s t : State) (i : Instr),
    ((∃ body, i = .escNamed body) ∨ (∃ body, i = .escHex body) ∨ i = .crlf ∨ ∃ c, i = .char c) →
    exec i s = .next t →
    SameInputs s t ∧ t.decoder = s.decoder ∧ t.splitter = s.splitter ∧ t.compressor = s.compressor
      ∧ t.encoder.v = s.encoder.v ∧ t.encoder.maxLen = s.encoder.maxLen
      ∧ ((i = .crlf ∨ ∃ c, i = .char c) → t.encoder.j = s.encoder.j)
      ∧ ((Raised .encodingError s.encoder.k t ∧ t.encoder.k = s.encoder.k ∧ t.encoder.val = s.encoder.val
            ∧ t.expander = { s.expander with ptLog := [] })
        ∨ (SameCommand s t ∧ SameBytesButAppended s t ∧ t.txt = s.txt ∧ t.expander = s.expander
            ∧ t.out = s.out ++ codeBytes t.encoder.val ∧ t.encoder.k = s.encoder.k + i.width))

/-! ### Steps, commands and errors -/

/-- When the bytes or characters at the running engine's scan index decode to an element, the step is exec of it. -/
def Obligations.StepRunsDecodedElement : Prop :=
  ∀ (s : State) (i : Instr),
    (s.phase = .expand ∧ decodeCompressed (s.w.drop s.expander.i) = .ok i)
      ∨ ((s.phase = .decodeNext ∨ s.phase = .decodeWord) ∧ decodeCode (s.b.drop s.decoder.pos) = .ok i)
      ∨ (s.phase = .encode
          ∧ decodeText (isTokenOf (s.tables.ri s.encoder.v)) (s.src.drop s.encoder.k) = .ok i) →
    step s = exec i s

/-- R249, which the spec derives: there are no stuck states; every state has its one step. In the idle state it is the
model's (log 1). -/
def Obligations.EveryStepIsSafe : Prop := ∀ s : State, Safe s

/-- An idle block accepts the request: the operands are sampled and the registers of R42's table initialised. The
request slot and the accepting step are the model's (log 1). -/
def Obligations.IdleBlockAcceptsRequest : Prop :=
  ∀ (s : State) (c : Command), s.phase = .idle → s.request = some c →
    ∃ t, step s = .next t ∧ t.request = none ∧ t.response = none ∧ t.tables = s.tables
      ∧ match c with
        | .expand fb w ws => t.phase = .expand ∧ t.w = w ∧ t.expander.ws = ws ∧ t.expander.i = 0 ∧ t.out = []
            ∧ t.expander.ptLog = [] ∧ ∀ a, memRead? t.fb a = fb[a]?
        | .decodeNext b pos v => t.phase = .decodeNext ∧ t.b = b ∧ t.decoder.pos = pos ∧ t.decoder.v = v
        | .decodeWord b v => t.phase = .decodeWord ∧ t.b = b ∧ t.decoder.pos = 0 ∧ t.decoder.v = v ∧ t.txt = []
        | .encode src v maxLen => t.phase = .encode ∧ t.src = src ∧ t.encoder.v = v ∧ t.encoder.maxLen = maxLen
            ∧ t.encoder.k = 0 ∧ t.out = []
        | .split b delim => t.phase = .split ∧ t.b = b ∧ t.splitter.words = [[]]
            ∧ t.splitter.delim = (match delim with | some d => d | none => 0xFE#8)
        | .compress b maxLen => t.phase = .compress ∧ t.b = b ∧ t.compressor.maxLen = maxLen ∧ t.compressor.i = 0
            ∧ t.out = []

/-- With no request the idle block does nothing (R240; the step that stays is log 1's). -/
def Obligations.IdleBlockWaits : Prop :=
  ∀ s : State, s.phase = .idle → s.request = none → step s = .next s

/-- At the end of its input a scan ends with the whole of its output as the result; the capacity check of ENCODE and
COMPRESS where maxLen is given is `CapacityIsCheckedAtTheEnd`. The response slot is the model's (log 1). -/
def Obligations.ScanEndDeliversResult : Prop :=
  ∀ s : State,
    (s.phase = .expand → s.w.length ≤ s.expander.i →
        ∃ t, step s = .next t ∧ t.phase = .idle ∧ t.status = .ok
          ∧ t.response = some (.ok (.expanded s.out s.expander.ptLog)))
      ∧ (s.phase = .decodeWord → s.b.length ≤ s.decoder.pos →
        ∃ t, step s = .next t ∧ t.phase = .idle ∧ t.status = .ok ∧ t.response = some (.ok (.decodedWord s.txt)))
      ∧ (s.phase = .encode → s.src.length ≤ s.encoder.k → s.encoder.maxLen = none →
        ∃ t, step s = .next t ∧ t.phase = .idle ∧ t.status = .ok ∧ t.response = some (.ok (.encoded s.out)))
      ∧ (s.phase = .split → s.b.length ≤ s.splitter.p →
        ∃ t, step s = .next t ∧ t.phase = .idle ∧ t.status = .ok
          ∧ t.response = some (.ok (.splitWords s.splitter.words)))
      ∧ (s.phase = .compress → s.b.length ≤ s.compressor.i → s.compressor.maxLen = none →
        ∃ t, step s = .next t ∧ t.phase = .idle ∧ t.status = .ok ∧ t.response = some (.ok (.compressed s.out)))

/-- R214, decision D18 (log 21): with maxLen given, an output longer than it ends the command with
CapacityError(|OUT|), one as long does not; the test is made at the end of the scan. -/
def Obligations.CapacityIsCheckedAtTheEnd : Prop :=
  ∀ (s : State) (m : Nat),
    (s.phase = .encode → s.src.length ≤ s.encoder.k → s.encoder.maxLen = some m →
        (m < s.out.length → ∃ t, step s = .next t ∧ Raised .capacityError s.out.length t)
          ∧ (s.out.length ≤ m →
              ∃ t, step s = .next t ∧ t.response = some (.ok (.encoded s.out)) ∧ t.status = .ok))
      ∧ (s.phase = .compress → s.b.length ≤ s.compressor.i → s.compressor.maxLen = some m →
        (m < s.out.length → ∃ t, step s = .next t ∧ Raised .capacityError s.out.length t)
          ∧ (s.out.length ≤ m →
              ∃ t, step s = .next t ∧ t.response = some (.ok (.compressed s.out)) ∧ t.status = .ok))

/-- R219: DECODE_NEXT at or past the end of its input raises BadOperand(pos): decision D24 (log 25). -/
def Obligations.DecodeNextPastEndIsBadOperand : Prop :=
  ∀ s : State, s.phase = .decodeNext → s.b.length ≤ s.decoder.pos →
    ∃ t, step s = .next t ∧ Raised .badOperand s.decoder.pos t

/-- R213: the four causes of EncodingError, each at the index k of the offending element's first character. The
unclosed group is decision D14 (log 17), the undefined CR LF decision D16 (log 19). -/
def Obligations.EncodingErrorCauses : Prop :=
  ∀ s : State, s.phase = .encode →
    (∀ c, s.src[s.encoder.k]? = some c → c ≠ lbrace → ¬ (c = charCR ∧ s.src[s.encoder.k + 1]? = some charLF) →
        reverseLookup (s.tables.ri s.encoder.v) [c] = none →
        ∃ t, step s = .next t ∧ Raised .encodingError s.encoder.k t)
      ∧ (∀ body rest, s.src.drop s.encoder.k = lbrace :: (body ++ rbrace :: rest) → rbrace ∉ body →
        reverseLookup (s.tables.ri s.encoder.v) (bracketGroup body) = none → isHexEscape body = false →
        ∃ t, step s = .next t ∧ Raised .encodingError s.encoder.k t)
      ∧ (s.src[s.encoder.k]? = some lbrace → rbrace ∉ s.src.drop (s.encoder.k + 1) →
        ∃ t, step s = .next t ∧ Raised .encodingError s.encoder.k t)
      ∧ (s.src[s.encoder.k]? = some charCR → s.src[s.encoder.k + 1]? = some charLF →
        reverseLookup (s.tables.ri s.encoder.v) [charCR, charLF] = none →
        ∃ t, step s = .next t ∧ Raised .encodingError s.encoder.k t)

/-- R216, decision D17 (log 20): what raising an error does, and that nothing else changes. -/
def Obligations.RaiseDiscardsOutput : Prop :=
  ∀ (s : State) (e : Status) (n : Nat),
    Raised e n (s.raise e n) ∧ SameInputs s (s.raise e n)
      ∧ (s.raise e n).expander = { s.expander with ptLog := [] } ∧ (s.raise e n).decoder = s.decoder
      ∧ (s.raise e n).encoder = s.encoder ∧ (s.raise e n).splitter = s.splitter
      ∧ (s.raise e n).compressor = s.compressor

/-! ### Tables and reset -/

/-- After reset no command runs, and both variants' tables meet R22, R23 and R241, and the JumpTable R32: a Code has
one Token and no Token is empty, the entries, punctuation, control tokens and families of R23 are there, RI is built
from CM, and the two directions of the JumpTable are coherent. The contents are parameters (log 4, log 6); what R23
says of punctuation and of the families is read as log 5 has it. -/
def Obligations.ResetTablesMeetTheConstraints : Prop :=
  State.reset.phase = .idle ∧ State.reset.request = none
    ∧ (∀ v, State.reset.tables.ri v = reverseBuild (State.reset.tables.cm v)
        ∧ charMapLookup (State.reset.tables.cm v) 0x0A#24 = some ['A']
        ∧ charMapLookup (State.reset.tables.cm v) 0x0B#24 = some ['B']
        ∧ (∃ c p, charMapLookup (State.reset.tables.cm v) c = some [p] ∧ isPunctuation p = true)
        ∧ (∀ t ∈ [[charCR, charLF], bracketGroup ['E', 'N', 'D'], bracketGroup ['C', 'l', 'o', 's', 'e'],
              bracketGroup ['B', 'e', 'g', 'i', 'n', ' ', 'L', 'i', 's', 't']],
            ∃ c, charMapLookup (State.reset.tables.cm v) c = some t)
        ∧ (∀ name ∈ [['D', 'e', 'l', 'a', 'y', ' '], ['C', 'o', 'l', 'o', 'r', ' ']],
            ∃ c nn, nn ≠ [] ∧ rbrace ∉ nn
              ∧ charMapLookup (State.reset.tables.cm v) c = some (bracketGroup (name ++ nn)))
        ∧ (∀ c t, (c, t) ∈ State.reset.tables.cm v → t ≠ [] ∧ charMapLookup (State.reset.tables.cm v) c = some t))
    ∧ ∀ d, d < jumpCapacity State.reset.tables.jt →
        ∃ j, jumpIndexOf State.reset.tables.jt d = some j ∧ jumpLookup State.reset.tables.jtInv j = some d

/-- R26, R241: the reverse index of a CharacterMap gives the least Code of each Token, whatever the order of the
entries. -/
def Obligations.ReverseIndexIsLeastCode : Prop :=
  (∀ (m : CharMap) (t : Token) (c : Code),
      reverseLookup (reverseBuild m) t = some c ↔ (c, t) ∈ m ∧ ∀ c', (c', t) ∈ m → c.toNat ≤ c'.toNat)
    ∧ ∀ (m m' : CharMap), m.Perm m' → ∀ t, reverseLookup (reverseBuild m) t = reverseLookup (reverseBuild m') t

/-- R27, R35, R245: no command writes a table, and neither do the steps between commands or the host's request. -/
def Obligations.TablesAreNeverWritten : Prop :=
  (∀ s t : State, step s = .next t → t.tables = s.tables) ∧ ∀ (s : State) (c : Command), (s.submit c).tables = s.tables

/-- R52: MemRead of a buffer loaded from a byte sequence is the sequence's slice. -/
def Obligations.MemReadIsSlice : Prop :=
  ∀ (fb : Bytes) (a n : Nat), a + n ≤ fb.length →
    (memOfBytes fb).size = fb.length ∧ memRead (memOfBytes fb) a n = (fb.drop a).take n

/-! ### Invariants -/

/-- Every step keeps the invariant. -/
def Obligations.StepKeepsInvariant : Prop :=
  ∀ s t : State, Inv s → step s = .next t → Inv t

/-- The invariant holds after reset. -/
def Obligations.ResetMeetsInvariant : Prop := Inv State.reset

/-- The host's request keeps the invariant, placed while the block is idle. -/
def Obligations.SubmitKeepsInvariant : Prop :=
  ∀ (s : State) (c : Command), Inv s → s.phase = .idle → Inv (s.submit c)

/-- R222, decision D20 (log 22): while EXPAND runs, PT_LOG is increasing and holds only indices already scanned, and a
step keeps that; a delivered log is increasing too. -/
def Obligations.PassThroughLogIsIncreasing : Prop :=
  ∀ s t : State, s.phase = .expand → s.expander.ptLog.Pairwise (· < ·) →
    (∀ x ∈ s.expander.ptLog, x < s.expander.i) → step s = .next t →
    t.expander.ptLog.Pairwise (· < ·) ∧ (∀ x ∈ t.expander.ptLog, x < t.expander.i)
      ∧ ∀ out log, t.response = some (.ok (.expanded out log)) → s.response = none → log = s.expander.ptLog

/-! ### Whole commands -/

/-- R212, R249 (derived by the spec; the steps are counted as log 39 says): a command always ends, with a response,
within (input length + 1) steps after the one that accepts it. -/
def Obligations.CommandsAlwaysEnd : Prop :=
  ∀ (s : State) (c : Command), s.phase = .idle →
    ∃ n r, n ≤ inputLength c + 2 ∧ (runFor n (s.submit c)).phase = .idle
      ∧ (runFor n (s.submit c)).request = none ∧ (runFor n (s.submit c)).response = some r

/-- R21: commands are independent: from two idle states with the same tables, whatever else they hold, a command runs
alike and ends with the same response. -/
def Obligations.CommandsAreIndependent : Prop :=
  ∀ (s s' : State) (c : Command) (n : Nat), s.phase = .idle → s'.phase = .idle → s.tables = s'.tables →
    (runFor (n + 1) (s.submit c)).phase = (runFor (n + 1) (s'.submit c)).phase
      ∧ (runFor (n + 1) (s.submit c)).response = (runFor (n + 1) (s'.submit c)).response
      ∧ ((runFor (n + 1) (s.submit c)).phase = .idle →
          (runFor (n + 1) (s.submit c)).status = (runFor (n + 1) (s'.submit c)).status
            ∧ (runFor (n + 1) (s.submit c)).info = (runFor (n + 1) (s'.submit c)).info)

/-- R211, R215 (the errors and their info are decisions D6, D10, D17, D18, D24): a command ends with its result or
with an error the table lists for it, the info in its range. -/
def Obligations.CommandsEndAsListed : Prop :=
  ∀ (s : State) (c : Command) (r : Response), s.phase = .idle → Completes c s r → PossibleResponse c r

/-- R159, which the spec derives: the length of EXPAND's output, and that it is the window's length only where nothing
expands. -/
def Obligations.ExpandOutputLength : Prop :=
  ∀ (s : State) (fb w out : Bytes) (ws : Nat) (log : List Nat), s.phase = .idle →
    Completes (.expand fb w ws) s (.ok (.expanded out log)) →
    w.length ≤ out.length ∧ out.length ≤ 35 * (w.length / 3) + w.length % 3
      ∧ (out.length = w.length → out = w)

/-- R159, which the spec derives: a window with no byte in 0xF0..0xF3 is returned unchanged. -/
def Obligations.PlainWindowIsUnchanged : Prop :=
  ∀ (s : State) (fb w : Bytes) (ws : Nat), s.phase = .idle → (∀ x ∈ w, x.toNat < 0xF0 ∨ 0xF3 < x.toNat) →
    Completes (.expand fb w ws) s (.ok (.expanded w []))

/-- R105: DECODE_NEXT's newpos is 1, 2 or 3 past pos and within the input. -/
def Obligations.DecodeNextAdvances : Prop :=
  ∀ (s : State) (b : Bytes) (pos newpos : Nat) (v : Variant) (tok : Token), s.phase = .idle →
    Completes (.decodeNext b pos v) s (.ok (.decodedNext tok newpos)) →
    pos < newpos ∧ newpos ≤ b.length ∧ newpos ≤ pos + 3

/-- R180, R181: SPLIT's Words: one more than there are delimiters, none holding the delimiter, and joined with it they
give the input back; the default delimiter is 0xFE. For the empty input this is decision D23 (log 24). -/
def Obligations.SplitCountsAndJoins : Prop :=
  ∀ (s : State) (b : Bytes) (delim : Option Byte), s.phase = .idle →
    ∃ words, Completes (.split b delim) s (.ok (.splitWords words))
      ∧ words.length = b.count (delim.getD 0xFE#8) + 1
      ∧ (∀ word ∈ words, delim.getD 0xFE#8 ∉ word)
      ∧ [delim.getD 0xFE#8].intercalate words = b

/-- R131 (b), which the spec derives: where every defined Code of a Word is canonical, encoding the decoded text gives
the Word back. -/
def Obligations.CanonicalWordsRoundTrip : Prop :=
  ∀ (s : State) (b : Bytes) (v : Variant) (txt : Text), s.phase = .idle → tablesWf s.tables = true →
    roundTripWf (s.tables.cm v) = true → canonicalWord (s.tables.cm v) (s.tables.ri v) b = true →
    Completes (.decodeWord b v) s (.ok (.decodedWord txt)) →
    Completes (.encode txt v none) s (.ok (.encoded b))

/-- R131 (a), which the spec derives: a decoded text encodes without error, to bytes that decode to the same text. -/
def Obligations.DecodedTextRoundTrips : Prop :=
  ∀ (s : State) (b : Bytes) (v : Variant) (txt : Text), s.phase = .idle → tablesWf s.tables = true →
    roundTripWf (s.tables.cm v) = true →
    Completes (.decodeWord b v) s (.ok (.decodedWord txt)) →
    ∃ b', Completes (.encode txt v none) s (.ok (.encoded b'))
      ∧ Completes (.decodeWord b' v) s (.ok (.decodedWord txt))

/-! ### Companion compressor -/

/-- R193: the candidate text ends before the next delimiter within the next 35 bytes, or at 35 bytes, or at the
input's end; clipping at the input's end is the spec's inference (log 29). -/
def Obligations.CandidateEndsAtBoundary : Prop :=
  ∀ left : Bytes, left ≠ [] →
    ∃ n, candidate left = left.take n ∧ 1 ≤ n ∧ n ≤ 35 ∧ n ≤ left.length
      ∧ (∀ q, 1 ≤ q → q < n → left[q]? ≠ some 0xFE#8)
      ∧ (n < 35 → n < left.length → left[n]? = some 0xFE#8)

/-- R194, R196: BestMatch gives a match of the greatest length and of those the least distance, and none only where
there is no match. How distances are measured is decision D28 (log 29). -/
def Obligations.BestMatchIsLongestThenNearest : Prop :=
  ∀ (cap : Nat) (out cand : Bytes),
    (∀ l d, bestMatch cap out cand = some (l, d) →
        MatchAt cap out cand l d
          ∧ ∀ l' d', MatchAt cap out cand l' d' → l' ≤ l ∧ (l' = l → d ≤ d'))
      ∧ (bestMatch cap out cand = none → ∀ l d, ¬ MatchAt cap out cand l d)

/-- R198, which the spec derives: an input with no byte in 0xF0..0xF3 is compressed to a stream that expands back to
it. -/
def Obligations.CompressedInputExpandsBack : Prop :=
  ∀ (s : State) (b : Bytes), s.phase = .idle → tablesWf s.tables = true →
    (∀ x ∈ b, x.toNat < 0xF0 ∨ 0xF3 < x.toNat) →
    ∃ x, Completes (.compress b none) s (.ok (.compressed x))
      ∧ Completes (.expand x x 0) s (.ok (.expanded b []))

/-- R192, R195, R197: one turn of COMPRESS's loop. A delimiter, and a byte with no match, is emitted as it is, whatever its
value, and i advances 1; a match (L, D) is emitted as the pointer of length L and index JT(D), and i advances L. Nothing
but OUT's end and i changes. COMPRESS is the optional companion (log 29). -/
def Obligations.CompressTurnEmitsPointerOrByte : Prop :=
  ∀ (s : State) (x : Byte), s.phase = .compress → s.b[s.compressor.i]? = some x →
    (x = 0xFE#8 ∨ bestMatch (jumpCapacity s.tables.jt) s.out (candidate (s.b.drop s.compressor.i)) = none →
        step s = .next { s with out := s.out ++ [x], compressor := { s.compressor with i := s.compressor.i + 1 } })
      ∧ ∀ l d, x ≠ 0xFE#8 →
          bestMatch (jumpCapacity s.tables.jt) s.out (candidate (s.b.drop s.compressor.i)) = some (l, d) →
          ∃ j, jumpIndexOf s.tables.jt d = some j ∧ pointerLength (BitVec.ofNat 5 (l - 4)) = l
            ∧ step s = .next { s with out := s.out ++ pointerBytes (BitVec.ofNat 5 (l - 4)) j,
                                      compressor := { s.compressor with i := s.compressor.i + l } }

/-- R215: the status numbers, which are decision D17's (log 20), and the STATUS a response carries. -/
def Obligations.StatusNumbersOfResponses : Prop :=
  ∀ (s : State) (n : Nat),
    (∀ r, statusNumber (s.respond (.ok r)).status = 0)
      ∧ statusNumber (s.raise .encodingError n).status = 1 ∧ statusNumber (s.raise .capacityError n).status = 2
      ∧ statusNumber (s.raise .truncatedCode n).status = 3 ∧ statusNumber (s.raise .unmappedJump n).status = 4
      ∧ statusNumber (s.raise .badOperand n).status = 5
end

