-- ==== Sys2Proof/Laws/Decode.lean ====
section
/-! SUPPORT. The decoder: what each classification can answer. -/

namespace Sys2Proof

/-- A lead byte has a CODE2 row exactly when it is in CODE2_LEAD (R6, R78, R90). -/
theorem code2Row_isSome (b0 : Byte) (second : Option Byte) : (code2Row b0 second).isSome = isCode2Lead b0 := by
  have h : ∀ b : Byte, (b &&& 0xF8#8 = 0xD0#8 ∨ b &&& 0xFE#8 = 0xD8#8 ∨ b = 0xDA#8 ∨ b &&& 0xFE#8 = 0xE2#8)
      ↔ isCode2Lead b = true := by decide
  rcases hb : isCode2Lead b0 with _ | _
  · have := mt (h b0).1 (by simp [hb])
    simp only [not_or] at this
    simp [code2Row, this]
  · rcases (h b0).2 hb with h1 | h1 | h1 | h1 <;> simp only [code2Row] <;> (repeat' split) <;> rfl

/-- What a CODE2 row answers: a CODE2 element with that lead and second byte. -/
theorem code2Row_cases {b0 : Byte} {second : Option Byte} {i : Instr} (h : code2Row b0 second = some i) :
    (∃ a, leadD0 a = b0 ∧ i = .code2D0 a second) ∨ (∃ a, leadD8 a = b0 ∧ i = .code2D8 a second)
      ∨ (leadDA = b0 ∧ i = .code2DA second) ∨ (∃ a, leadE2 a = b0 ∧ i = .code2E2 a second) := by
  have hD0 : ∀ b : Byte, b &&& 0xF8#8 = 0xD0#8 → leadD0 (b.setWidth 3) = b := by decide
  have hD8 : ∀ b : Byte, b &&& 0xFE#8 = 0xD8#8 → leadD8 (b.setWidth 1) = b := by decide
  have hE2 : ∀ b : Byte, b &&& 0xFE#8 = 0xE2#8 → leadE2 (b.setWidth 1) = b := by decide
  simp only [code2Row] at h
  split at h
  · exact .inl ⟨_, hD0 _ ‹_›, by simpa using h.symm⟩
  · split at h
    · exact .inr (.inl ⟨_, hD8 _ ‹_›, by simpa using h.symm⟩)
    · split at h
      · exact .inr (.inr (.inl ⟨by simp_all [leadDA], by simpa using h.symm⟩))
      · split at h
        · exact .inr (.inr (.inr ⟨_, hE2 _ ‹_›, by simpa using h.symm⟩))
        · cases h

/-- The row of each lead byte the encoder writes. -/
theorem code2Row_leads (second : Option Byte) :
    (∀ a, code2Row (leadD0 a) second = some (.code2D0 a second))
      ∧ (∀ a, code2Row (leadD8 a) second = some (.code2D8 a second))
      ∧ code2Row leadDA second = some (.code2DA second)
      ∧ ∀ a, code2Row (leadE2 a) second = some (.code2E2 a second) := by
  have hD0 : ∀ a : BitVec 3, leadD0 a &&& 0xF8#8 = 0xD0#8 ∧ (leadD0 a).setWidth 3 = a := by decide
  have hD8 : ∀ a : BitVec 1, ¬ leadD8 a &&& 0xF8#8 = 0xD0#8 ∧ leadD8 a &&& 0xFE#8 = 0xD8#8
      ∧ (leadD8 a).setWidth 1 = a := by decide
  have hE2 : ∀ a : BitVec 1, ¬ leadE2 a &&& 0xF8#8 = 0xD0#8 ∧ ¬ leadE2 a &&& 0xFE#8 = 0xD8#8
      ∧ ¬ leadE2 a = 0xDA#8 ∧ leadE2 a &&& 0xFE#8 = 0xE2#8 ∧ (leadE2 a).setWidth 1 = a := by decide
  exact ⟨fun a => by simp [code2Row, hD0 a], fun a => by simp [code2Row, hD8 a], by simp [code2Row, leadDA],
    fun a => by simp [code2Row, hE2 a]⟩

/-- CODE3's lead byte is in PTR_LEAD and in no CODE2 row, and its low bits are the operand. -/
theorem leadF0_facts (a : BitVec 2) :
    isPtrLead (leadF0 a) = true ∧ isCode2Lead (leadF0 a) = false ∧ (leadF0 a).setWidth 2 = a := by
  revert a; decide

/-- A pointer's lead byte is in PTR_LEAD. -/
theorem pointerByte0_lead (len5 : BitVec 5) : isPtrLead (pointerByte0 len5) = true := by
  revert len5; decide

/-- A PTR_LEAD byte is the CODE3 lead of its low two bits. -/
theorem leadF0_setWidth (b0 : Byte) (h : isPtrLead b0 = true) : leadF0 (b0.setWidth 2) = b0 := by
  revert b0; decide

/-- The body of a group that has one: what stands before the first closing brace. -/
theorem groupBody_eq_some {chars body : Text} :
    groupBody chars = some body ↔ rbrace ∉ body ∧ ∃ rest, chars = body ++ rbrace :: rest := by
  induction chars generalizing body with
  | nil => simp [groupBody]
  | cons c cs ih =>
    simp only [groupBody]
    split
    · next hc =>
      subst hc
      constructor
      · rintro h
        cases h
        simp
      · rintro ⟨hn, rest, h⟩
        cases body with
        | nil => rfl
        | cons d ds => simp at h; simp [← h.1] at hn
    · next hc =>
      rw [Option.map_eq_some_iff]
      constructor
      · rintro ⟨ds, hd, rfl⟩
        obtain ⟨hn, rest, rfl⟩ := ih.1 hd
        exact ⟨by simp [hn, Ne.symm hc], rest, rfl⟩
      · rintro ⟨hn, rest, h⟩
        cases body with
        | nil => simp at h; exact absurd h.1 hc
        | cons d ds =>
          simp only [List.cons_append, List.cons.injEq] at h
          obtain ⟨rfl, h⟩ := h
          refine ⟨ds, ih.2 ⟨?_, rest, h⟩, rfl⟩
          exact fun hm => hn (List.mem_cons_of_mem _ hm)

/-- A group has no body exactly when there is no closing brace. -/
theorem groupBody_eq_none {chars : Text} : groupBody chars = none ↔ rbrace ∉ chars := by
  induction chars with
  | nil => simp [groupBody]
  | cons c cs ih =>
    simp only [groupBody]
    split
    · next hc => simp [hc]
    · next hc => simp [ih, Ne.symm hc]

/-- What the compressed stream's decoder can answer. -/
theorem decodeCompressed_cases {bytes : Bytes} {i : Instr} (h : decodeCompressed bytes = .ok i) :
    (∃ b0 b1 b2 rest, bytes = b0 :: b1 :: b2 :: rest ∧ isPtrLead b0 = true
        ∧ i = .ptr (pointerLen5 b0 b1) (pointerJv b1 b2))
      ∨ ∃ b0 rest, bytes = b0 :: rest ∧ (isPtrLead b0 = true → rest.length < 2) ∧ i = .lit b0 := by
  match bytes with
  | [] => simp [decodeCompressed] at h
  | [b0] => right; exact ⟨b0, [], rfl, by simp, by simpa [decodeCompressed, decodePtrLit] using h.symm⟩
  | [b0, b1] => right; exact ⟨b0, [b1], rfl, by simp, by simpa [decodeCompressed, decodePtrLit] using h.symm⟩
  | b0 :: b1 :: b2 :: rest =>
    simp only [decodeCompressed, decodePtrLit] at h
    split at h
    · left; exact ⟨b0, b1, b2, rest, rfl, ‹_›, by simpa using h.symm⟩
    · right; exact ⟨b0, b1 :: b2 :: rest, rfl, by simp_all, by simpa using h.symm⟩

/-- What the Code stream's decoder can answer. -/
theorem decodeCode_cases {bytes : Bytes} {i : Instr} (h : decodeCode bytes = .ok i) :
    ∃ b0 rest, bytes = b0 :: rest
      ∧ (code2Row b0 rest.head? = some i
        ∨ (isCode2Lead b0 = false ∧ isPtrLead b0 = true
            ∧ ∃ b1 b2 rest', rest = b1 :: b2 :: rest' ∧ i = .code3 (b0.setWidth 2) b1 b2)
        ∨ (isCode2Lead b0 = false ∧ (isPtrLead b0 = true → rest.length < 2) ∧ i = .code1 b0)) := by
  cases bytes with
  | nil => simp [decodeCode] at h
  | cons b0 rest =>
    refine ⟨b0, rest, rfl, ?_⟩
    simp only [decodeCode] at h
    split at h
    · next j hj => cases h; exact .inl hj
    · next hj =>
      have hl : isCode2Lead b0 = false := by rw [← code2Row_isSome b0 rest.head?, hj]; rfl
      right
      match rest with
      | [] => right; exact ⟨hl, by simp, by simpa [decodeCode31] using h.symm⟩
      | [b1] => right; exact ⟨hl, by simp, by simpa [decodeCode31] using h.symm⟩
      | b1 :: b2 :: rest' =>
        simp only [decodeCode31] at h
        split at h
        · left; exact ⟨hl, ‹_›, b1, b2, rest', rfl, by simpa using h.symm⟩
        · right; exact ⟨hl, by simp_all, by simpa using h.symm⟩

/-- What the text decoder can answer. -/
theorem decodeText_cases {isToken : Text → Bool} {chars : Text} {i : Instr} (h : decodeText isToken chars = .ok i) :
    (∃ body rest, chars = bracketGroup body ++ rest ∧ rbrace ∉ body
        ∧ i = if isToken (bracketGroup body) then .escNamed body else .escHex body)
      ∨ (∃ rest, chars = charCR :: charLF :: rest ∧ i = .crlf)
      ∨ ∃ c rest, chars = c :: rest ∧ c ≠ lbrace ∧ ¬ (c = charCR ∧ rest.head? = some charLF) ∧ i = .char c := by
  cases chars with
  | nil => simp [decodeText] at h
  | cons c rest =>
    simp only [decodeText] at h
    split at h
    · next hc =>
      split at h
      · cases h
      · next body hb =>
        obtain ⟨hn, rest', rfl⟩ := groupBody_eq_some.1 hb
        left
        refine ⟨body, rest', by simp [bracketGroup, hc], hn, ?_⟩
        split at h <;> (cases h; simp_all)
    · next hc =>
      split at h
      · next hcr =>
        obtain ⟨rfl, hr⟩ := hcr
        right; left
        cases rest with
        | nil => simp at hr
        | cons d ds => simp at hr; subst hr; exact ⟨ds, rfl, by simpa using h.symm⟩
      · next hcr =>
        right; right
        exact ⟨c, rest, rfl, hc, hcr, by simpa using h.symm⟩

/-- When the decoders give no element: nothing is left, or the group at the head has no closing brace. -/
theorem decodeCompressed_error {bytes : Bytes} {r : Reject} (h : decodeCompressed bytes = .error r) : bytes = [] := by
  cases bytes with
  | nil => rfl
  | cons b0 rest => simp [decodeCompressed] at h

theorem decodeCode_error {bytes : Bytes} {r : Reject} (h : decodeCode bytes = .error r) : bytes = [] := by
  cases bytes with
  | nil => rfl
  | cons b0 rest => simp only [decodeCode] at h; split at h <;> cases h

theorem decodeText_error {isToken : Text → Bool} {chars : Text} {r : Reject} (h : decodeText isToken chars = .error r) :
    (chars = [] ∧ r = .endOfStream) ∨ ∃ rest, chars = lbrace :: rest ∧ rbrace ∉ rest ∧ r = .unclosedGroup := by
  cases chars with
  | nil => simp only [decodeText] at h; cases h; exact .inl ⟨rfl, rfl⟩
  | cons c rest =>
    simp only [decodeText] at h
    split at h
    · next hc =>
      split at h
      · next hb => cases h; exact .inr ⟨rest, by simp [hc], groupBody_eq_none.1 hb, rfl⟩
      · split at h <;> cases h
    · split at h <;> cases h

end Sys2Proof
end

