-- ==== Sys2Proof/Laws/State.lean ====
section
/-! SUPPORT. One lemma per field of State for every named update of the state. -/

namespace Sys2Proof.Machine

variable (s : State)

/-! `State.respond` -/
@[simp] theorem State.respond_tables (r : Response) : (s.respond r).tables = s.tables := rfl
@[simp] theorem State.respond_fb (r : Response) : (s.respond r).fb = s.fb := rfl
@[simp] theorem State.respond_w (r : Response) : (s.respond r).w = s.w := rfl
@[simp] theorem State.respond_b (r : Response) : (s.respond r).b = s.b := rfl
@[simp] theorem State.respond_src (r : Response) : (s.respond r).src = s.src := rfl
@[simp] theorem State.respond_out (r : Response) : (s.respond r).out = s.out := rfl
@[simp] theorem State.respond_txt (r : Response) : (s.respond r).txt = s.txt := rfl
@[simp] theorem State.respond_expander (r : Response) : (s.respond r).expander = s.expander := rfl
@[simp] theorem State.respond_decoder (r : Response) : (s.respond r).decoder = s.decoder := rfl
@[simp] theorem State.respond_encoder (r : Response) : (s.respond r).encoder = s.encoder := rfl
@[simp] theorem State.respond_splitter (r : Response) : (s.respond r).splitter = s.splitter := rfl
@[simp] theorem State.respond_compressor (r : Response) : (s.respond r).compressor = s.compressor := rfl
@[simp] theorem State.respond_phase (r : Response) : (s.respond r).phase = .idle := rfl
@[simp] theorem State.respond_request (r : Response) : (s.respond r).request = s.request := rfl
@[simp] theorem State.respond_response (r : Response) : (s.respond r).response = some r := rfl
@[simp] theorem State.respond_status (r : Response) : (s.respond r).status = r.status := rfl
@[simp] theorem State.respond_info (r : Response) : (s.respond r).info = r.info := rfl

/-! `State.emit` -/
@[simp] theorem State.emit_tables (bs : Bytes) : (s.emit bs).tables = s.tables := rfl
@[simp] theorem State.emit_fb (bs : Bytes) : (s.emit bs).fb = s.fb := rfl
@[simp] theorem State.emit_w (bs : Bytes) : (s.emit bs).w = s.w := rfl
@[simp] theorem State.emit_b (bs : Bytes) : (s.emit bs).b = s.b := rfl
@[simp] theorem State.emit_src (bs : Bytes) : (s.emit bs).src = s.src := rfl
@[simp] theorem State.emit_out (bs : Bytes) : (s.emit bs).out = s.out ++ bs := rfl
@[simp] theorem State.emit_txt (bs : Bytes) : (s.emit bs).txt = s.txt := rfl
@[simp] theorem State.emit_expander (bs : Bytes) : (s.emit bs).expander = s.expander := rfl
@[simp] theorem State.emit_decoder (bs : Bytes) : (s.emit bs).decoder = s.decoder := rfl
@[simp] theorem State.emit_encoder (bs : Bytes) : (s.emit bs).encoder = s.encoder := rfl
@[simp] theorem State.emit_splitter (bs : Bytes) : (s.emit bs).splitter = s.splitter := rfl
@[simp] theorem State.emit_compressor (bs : Bytes) : (s.emit bs).compressor = s.compressor := rfl
@[simp] theorem State.emit_phase (bs : Bytes) : (s.emit bs).phase = s.phase := rfl
@[simp] theorem State.emit_request (bs : Bytes) : (s.emit bs).request = s.request := rfl
@[simp] theorem State.emit_response (bs : Bytes) : (s.emit bs).response = s.response := rfl
@[simp] theorem State.emit_status (bs : Bytes) : (s.emit bs).status = s.status := rfl
@[simp] theorem State.emit_info (bs : Bytes) : (s.emit bs).info = s.info := rfl

/-! `State.emitText` -/
@[simp] theorem State.emitText_tables (t : Text) : (s.emitText t).tables = s.tables := rfl
@[simp] theorem State.emitText_fb (t : Text) : (s.emitText t).fb = s.fb := rfl
@[simp] theorem State.emitText_w (t : Text) : (s.emitText t).w = s.w := rfl
@[simp] theorem State.emitText_b (t : Text) : (s.emitText t).b = s.b := rfl
@[simp] theorem State.emitText_src (t : Text) : (s.emitText t).src = s.src := rfl
@[simp] theorem State.emitText_out (t : Text) : (s.emitText t).out = s.out := rfl
@[simp] theorem State.emitText_txt (t : Text) : (s.emitText t).txt = s.txt ++ t := rfl
@[simp] theorem State.emitText_expander (t : Text) : (s.emitText t).expander = s.expander := rfl
@[simp] theorem State.emitText_decoder (t : Text) : (s.emitText t).decoder = s.decoder := rfl
@[simp] theorem State.emitText_encoder (t : Text) : (s.emitText t).encoder = s.encoder := rfl
@[simp] theorem State.emitText_splitter (t : Text) : (s.emitText t).splitter = s.splitter := rfl
@[simp] theorem State.emitText_compressor (t : Text) : (s.emitText t).compressor = s.compressor := rfl
@[simp] theorem State.emitText_phase (t : Text) : (s.emitText t).phase = s.phase := rfl
@[simp] theorem State.emitText_request (t : Text) : (s.emitText t).request = s.request := rfl
@[simp] theorem State.emitText_response (t : Text) : (s.emitText t).response = s.response := rfl
@[simp] theorem State.emitText_status (t : Text) : (s.emitText t).status = s.status := rfl
@[simp] theorem State.emitText_info (t : Text) : (s.emitText t).info = s.info := rfl

/-! `State.setExpander` -/
@[simp] theorem State.setExpander_tables (e : Expander) : (s.setExpander e).tables = s.tables := rfl
@[simp] theorem State.setExpander_fb (e : Expander) : (s.setExpander e).fb = s.fb := rfl
@[simp] theorem State.setExpander_w (e : Expander) : (s.setExpander e).w = s.w := rfl
@[simp] theorem State.setExpander_b (e : Expander) : (s.setExpander e).b = s.b := rfl
@[simp] theorem State.setExpander_src (e : Expander) : (s.setExpander e).src = s.src := rfl
@[simp] theorem State.setExpander_out (e : Expander) : (s.setExpander e).out = s.out := rfl
@[simp] theorem State.setExpander_txt (e : Expander) : (s.setExpander e).txt = s.txt := rfl
@[simp] theorem State.setExpander_expander (e : Expander) : (s.setExpander e).expander = e := rfl
@[simp] theorem State.setExpander_decoder (e : Expander) : (s.setExpander e).decoder = s.decoder := rfl
@[simp] theorem State.setExpander_encoder (e : Expander) : (s.setExpander e).encoder = s.encoder := rfl
@[simp] theorem State.setExpander_splitter (e : Expander) : (s.setExpander e).splitter = s.splitter := rfl
@[simp] theorem State.setExpander_compressor (e : Expander) : (s.setExpander e).compressor = s.compressor := rfl
@[simp] theorem State.setExpander_phase (e : Expander) : (s.setExpander e).phase = s.phase := rfl
@[simp] theorem State.setExpander_request (e : Expander) : (s.setExpander e).request = s.request := rfl
@[simp] theorem State.setExpander_response (e : Expander) : (s.setExpander e).response = s.response := rfl
@[simp] theorem State.setExpander_status (e : Expander) : (s.setExpander e).status = s.status := rfl
@[simp] theorem State.setExpander_info (e : Expander) : (s.setExpander e).info = s.info := rfl

/-! `State.setDecoder` -/
@[simp] theorem State.setDecoder_tables (d : Decoder) : (s.setDecoder d).tables = s.tables := rfl
@[simp] theorem State.setDecoder_fb (d : Decoder) : (s.setDecoder d).fb = s.fb := rfl
@[simp] theorem State.setDecoder_w (d : Decoder) : (s.setDecoder d).w = s.w := rfl
@[simp] theorem State.setDecoder_b (d : Decoder) : (s.setDecoder d).b = s.b := rfl
@[simp] theorem State.setDecoder_src (d : Decoder) : (s.setDecoder d).src = s.src := rfl
@[simp] theorem State.setDecoder_out (d : Decoder) : (s.setDecoder d).out = s.out := rfl
@[simp] theorem State.setDecoder_txt (d : Decoder) : (s.setDecoder d).txt = s.txt := rfl
@[simp] theorem State.setDecoder_expander (d : Decoder) : (s.setDecoder d).expander = s.expander := rfl
@[simp] theorem State.setDecoder_decoder (d : Decoder) : (s.setDecoder d).decoder = d := rfl
@[simp] theorem State.setDecoder_encoder (d : Decoder) : (s.setDecoder d).encoder = s.encoder := rfl
@[simp] theorem State.setDecoder_splitter (d : Decoder) : (s.setDecoder d).splitter = s.splitter := rfl
@[simp] theorem State.setDecoder_compressor (d : Decoder) : (s.setDecoder d).compressor = s.compressor := rfl
@[simp] theorem State.setDecoder_phase (d : Decoder) : (s.setDecoder d).phase = s.phase := rfl
@[simp] theorem State.setDecoder_request (d : Decoder) : (s.setDecoder d).request = s.request := rfl
@[simp] theorem State.setDecoder_response (d : Decoder) : (s.setDecoder d).response = s.response := rfl
@[simp] theorem State.setDecoder_status (d : Decoder) : (s.setDecoder d).status = s.status := rfl
@[simp] theorem State.setDecoder_info (d : Decoder) : (s.setDecoder d).info = s.info := rfl

/-! `State.setEncoder` -/
@[simp] theorem State.setEncoder_tables (e : Encoder) : (s.setEncoder e).tables = s.tables := rfl
@[simp] theorem State.setEncoder_fb (e : Encoder) : (s.setEncoder e).fb = s.fb := rfl
@[simp] theorem State.setEncoder_w (e : Encoder) : (s.setEncoder e).w = s.w := rfl
@[simp] theorem State.setEncoder_b (e : Encoder) : (s.setEncoder e).b = s.b := rfl
@[simp] theorem State.setEncoder_src (e : Encoder) : (s.setEncoder e).src = s.src := rfl
@[simp] theorem State.setEncoder_out (e : Encoder) : (s.setEncoder e).out = s.out := rfl
@[simp] theorem State.setEncoder_txt (e : Encoder) : (s.setEncoder e).txt = s.txt := rfl
@[simp] theorem State.setEncoder_expander (e : Encoder) : (s.setEncoder e).expander = s.expander := rfl
@[simp] theorem State.setEncoder_decoder (e : Encoder) : (s.setEncoder e).decoder = s.decoder := rfl
@[simp] theorem State.setEncoder_encoder (e : Encoder) : (s.setEncoder e).encoder = e := rfl
@[simp] theorem State.setEncoder_splitter (e : Encoder) : (s.setEncoder e).splitter = s.splitter := rfl
@[simp] theorem State.setEncoder_compressor (e : Encoder) : (s.setEncoder e).compressor = s.compressor := rfl
@[simp] theorem State.setEncoder_phase (e : Encoder) : (s.setEncoder e).phase = s.phase := rfl
@[simp] theorem State.setEncoder_request (e : Encoder) : (s.setEncoder e).request = s.request := rfl
@[simp] theorem State.setEncoder_response (e : Encoder) : (s.setEncoder e).response = s.response := rfl
@[simp] theorem State.setEncoder_status (e : Encoder) : (s.setEncoder e).status = s.status := rfl
@[simp] theorem State.setEncoder_info (e : Encoder) : (s.setEncoder e).info = s.info := rfl

/-! `State.setSplitter` -/
@[simp] theorem State.setSplitter_tables (p : Splitter) : (s.setSplitter p).tables = s.tables := rfl
@[simp] theorem State.setSplitter_fb (p : Splitter) : (s.setSplitter p).fb = s.fb := rfl
@[simp] theorem State.setSplitter_w (p : Splitter) : (s.setSplitter p).w = s.w := rfl
@[simp] theorem State.setSplitter_b (p : Splitter) : (s.setSplitter p).b = s.b := rfl
@[simp] theorem State.setSplitter_src (p : Splitter) : (s.setSplitter p).src = s.src := rfl
@[simp] theorem State.setSplitter_out (p : Splitter) : (s.setSplitter p).out = s.out := rfl
@[simp] theorem State.setSplitter_txt (p : Splitter) : (s.setSplitter p).txt = s.txt := rfl
@[simp] theorem State.setSplitter_expander (p : Splitter) : (s.setSplitter p).expander = s.expander := rfl
@[simp] theorem State.setSplitter_decoder (p : Splitter) : (s.setSplitter p).decoder = s.decoder := rfl
@[simp] theorem State.setSplitter_encoder (p : Splitter) : (s.setSplitter p).encoder = s.encoder := rfl
@[simp] theorem State.setSplitter_splitter (p : Splitter) : (s.setSplitter p).splitter = p := rfl
@[simp] theorem State.setSplitter_compressor (p : Splitter) : (s.setSplitter p).compressor = s.compressor := rfl
@[simp] theorem State.setSplitter_phase (p : Splitter) : (s.setSplitter p).phase = s.phase := rfl
@[simp] theorem State.setSplitter_request (p : Splitter) : (s.setSplitter p).request = s.request := rfl
@[simp] theorem State.setSplitter_response (p : Splitter) : (s.setSplitter p).response = s.response := rfl
@[simp] theorem State.setSplitter_status (p : Splitter) : (s.setSplitter p).status = s.status := rfl
@[simp] theorem State.setSplitter_info (p : Splitter) : (s.setSplitter p).info = s.info := rfl

/-! `State.setCompressor` -/
@[simp] theorem State.setCompressor_tables (c : Compressor) : (s.setCompressor c).tables = s.tables := rfl
@[simp] theorem State.setCompressor_fb (c : Compressor) : (s.setCompressor c).fb = s.fb := rfl
@[simp] theorem State.setCompressor_w (c : Compressor) : (s.setCompressor c).w = s.w := rfl
@[simp] theorem State.setCompressor_b (c : Compressor) : (s.setCompressor c).b = s.b := rfl
@[simp] theorem State.setCompressor_src (c : Compressor) : (s.setCompressor c).src = s.src := rfl
@[simp] theorem State.setCompressor_out (c : Compressor) : (s.setCompressor c).out = s.out := rfl
@[simp] theorem State.setCompressor_txt (c : Compressor) : (s.setCompressor c).txt = s.txt := rfl
@[simp] theorem State.setCompressor_expander (c : Compressor) : (s.setCompressor c).expander = s.expander := rfl
@[simp] theorem State.setCompressor_decoder (c : Compressor) : (s.setCompressor c).decoder = s.decoder := rfl
@[simp] theorem State.setCompressor_encoder (c : Compressor) : (s.setCompressor c).encoder = s.encoder := rfl
@[simp] theorem State.setCompressor_splitter (c : Compressor) : (s.setCompressor c).splitter = s.splitter := rfl
@[simp] theorem State.setCompressor_compressor (c : Compressor) : (s.setCompressor c).compressor = c := rfl
@[simp] theorem State.setCompressor_phase (c : Compressor) : (s.setCompressor c).phase = s.phase := rfl
@[simp] theorem State.setCompressor_request (c : Compressor) : (s.setCompressor c).request = s.request := rfl
@[simp] theorem State.setCompressor_response (c : Compressor) : (s.setCompressor c).response = s.response := rfl
@[simp] theorem State.setCompressor_status (c : Compressor) : (s.setCompressor c).status = s.status := rfl
@[simp] theorem State.setCompressor_info (c : Compressor) : (s.setCompressor c).info = s.info := rfl

/-! `State.advanceI` -/
@[simp] theorem State.advanceI_tables (n : Nat) : (s.advanceI n).tables = s.tables := rfl
@[simp] theorem State.advanceI_fb (n : Nat) : (s.advanceI n).fb = s.fb := rfl
@[simp] theorem State.advanceI_w (n : Nat) : (s.advanceI n).w = s.w := rfl
@[simp] theorem State.advanceI_b (n : Nat) : (s.advanceI n).b = s.b := rfl
@[simp] theorem State.advanceI_src (n : Nat) : (s.advanceI n).src = s.src := rfl
@[simp] theorem State.advanceI_out (n : Nat) : (s.advanceI n).out = s.out := rfl
@[simp] theorem State.advanceI_txt (n : Nat) : (s.advanceI n).txt = s.txt := rfl
@[simp] theorem State.advanceI_expander (n : Nat) : (s.advanceI n).expander = { s.expander with i := s.expander.i + n } := rfl
@[simp] theorem State.advanceI_decoder (n : Nat) : (s.advanceI n).decoder = s.decoder := rfl
@[simp] theorem State.advanceI_encoder (n : Nat) : (s.advanceI n).encoder = s.encoder := rfl
@[simp] theorem State.advanceI_splitter (n : Nat) : (s.advanceI n).splitter = s.splitter := rfl
@[simp] theorem State.advanceI_compressor (n : Nat) : (s.advanceI n).compressor = s.compressor := rfl
@[simp] theorem State.advanceI_phase (n : Nat) : (s.advanceI n).phase = s.phase := rfl
@[simp] theorem State.advanceI_request (n : Nat) : (s.advanceI n).request = s.request := rfl
@[simp] theorem State.advanceI_response (n : Nat) : (s.advanceI n).response = s.response := rfl
@[simp] theorem State.advanceI_status (n : Nat) : (s.advanceI n).status = s.status := rfl
@[simp] theorem State.advanceI_info (n : Nat) : (s.advanceI n).info = s.info := rfl

/-! `State.discard` -/
@[simp] theorem State.discard_tables : (s.discard).tables = s.tables := rfl
@[simp] theorem State.discard_fb : (s.discard).fb = s.fb := rfl
@[simp] theorem State.discard_w : (s.discard).w = s.w := rfl
@[simp] theorem State.discard_b : (s.discard).b = s.b := rfl
@[simp] theorem State.discard_src : (s.discard).src = s.src := rfl
@[simp] theorem State.discard_out : (s.discard).out = [] := rfl
@[simp] theorem State.discard_txt : (s.discard).txt = [] := rfl
@[simp] theorem State.discard_expander : (s.discard).expander = { s.expander with ptLog := [] } := rfl
@[simp] theorem State.discard_decoder : (s.discard).decoder = s.decoder := rfl
@[simp] theorem State.discard_encoder : (s.discard).encoder = s.encoder := rfl
@[simp] theorem State.discard_splitter : (s.discard).splitter = s.splitter := rfl
@[simp] theorem State.discard_compressor : (s.discard).compressor = s.compressor := rfl
@[simp] theorem State.discard_phase : (s.discard).phase = s.phase := rfl
@[simp] theorem State.discard_request : (s.discard).request = s.request := rfl
@[simp] theorem State.discard_response : (s.discard).response = s.response := rfl
@[simp] theorem State.discard_status : (s.discard).status = s.status := rfl
@[simp] theorem State.discard_info : (s.discard).info = s.info := rfl

/-! `State.raise` -/
@[simp] theorem State.raise_tables (e : Status) (n : Nat) : (s.raise e n).tables = s.tables := rfl
@[simp] theorem State.raise_fb (e : Status) (n : Nat) : (s.raise e n).fb = s.fb := rfl
@[simp] theorem State.raise_w (e : Status) (n : Nat) : (s.raise e n).w = s.w := rfl
@[simp] theorem State.raise_b (e : Status) (n : Nat) : (s.raise e n).b = s.b := rfl
@[simp] theorem State.raise_src (e : Status) (n : Nat) : (s.raise e n).src = s.src := rfl
@[simp] theorem State.raise_out (e : Status) (n : Nat) : (s.raise e n).out = [] := rfl
@[simp] theorem State.raise_txt (e : Status) (n : Nat) : (s.raise e n).txt = [] := rfl
@[simp] theorem State.raise_expander (e : Status) (n : Nat) : (s.raise e n).expander = { s.expander with ptLog := [] } := rfl
@[simp] theorem State.raise_decoder (e : Status) (n : Nat) : (s.raise e n).decoder = s.decoder := rfl
@[simp] theorem State.raise_encoder (e : Status) (n : Nat) : (s.raise e n).encoder = s.encoder := rfl
@[simp] theorem State.raise_splitter (e : Status) (n : Nat) : (s.raise e n).splitter = s.splitter := rfl
@[simp] theorem State.raise_compressor (e : Status) (n : Nat) : (s.raise e n).compressor = s.compressor := rfl
@[simp] theorem State.raise_phase (e : Status) (n : Nat) : (s.raise e n).phase = .idle := rfl
@[simp] theorem State.raise_request (e : Status) (n : Nat) : (s.raise e n).request = s.request := rfl
@[simp] theorem State.raise_response (e : Status) (n : Nat) : (s.raise e n).response = some (.err e n) := rfl
@[simp] theorem State.raise_status (e : Status) (n : Nat) : (s.raise e n).status = e := rfl
@[simp] theorem State.raise_info (e : Status) (n : Nat) : (s.raise e n).info = some n := rfl

/-! `State.submit` -/
@[simp] theorem State.submit_tables (c : Command) : (s.submit c).tables = s.tables := rfl
@[simp] theorem State.submit_fb (c : Command) : (s.submit c).fb = s.fb := rfl
@[simp] theorem State.submit_w (c : Command) : (s.submit c).w = s.w := rfl
@[simp] theorem State.submit_b (c : Command) : (s.submit c).b = s.b := rfl
@[simp] theorem State.submit_src (c : Command) : (s.submit c).src = s.src := rfl
@[simp] theorem State.submit_out (c : Command) : (s.submit c).out = s.out := rfl
@[simp] theorem State.submit_txt (c : Command) : (s.submit c).txt = s.txt := rfl
@[simp] theorem State.submit_expander (c : Command) : (s.submit c).expander = s.expander := rfl
@[simp] theorem State.submit_decoder (c : Command) : (s.submit c).decoder = s.decoder := rfl
@[simp] theorem State.submit_encoder (c : Command) : (s.submit c).encoder = s.encoder := rfl
@[simp] theorem State.submit_splitter (c : Command) : (s.submit c).splitter = s.splitter := rfl
@[simp] theorem State.submit_compressor (c : Command) : (s.submit c).compressor = s.compressor := rfl
@[simp] theorem State.submit_phase (c : Command) : (s.submit c).phase = s.phase := rfl
@[simp] theorem State.submit_request (c : Command) : (s.submit c).request = some c := rfl
@[simp] theorem State.submit_response (c : Command) : (s.submit c).response = s.response := rfl
@[simp] theorem State.submit_status (c : Command) : (s.submit c).status = s.status := rfl
@[simp] theorem State.submit_info (c : Command) : (s.submit c).info = s.info := rfl

/-! `State.begin` -/
@[simp] theorem State.begin_tables (p : Phase) : (s.begin p).tables = s.tables := rfl
@[simp] theorem State.begin_fb (p : Phase) : (s.begin p).fb = s.fb := rfl
@[simp] theorem State.begin_w (p : Phase) : (s.begin p).w = s.w := rfl
@[simp] theorem State.begin_b (p : Phase) : (s.begin p).b = s.b := rfl
@[simp] theorem State.begin_src (p : Phase) : (s.begin p).src = s.src := rfl
@[simp] theorem State.begin_out (p : Phase) : (s.begin p).out = s.out := rfl
@[simp] theorem State.begin_txt (p : Phase) : (s.begin p).txt = s.txt := rfl
@[simp] theorem State.begin_expander (p : Phase) : (s.begin p).expander = s.expander := rfl
@[simp] theorem State.begin_decoder (p : Phase) : (s.begin p).decoder = s.decoder := rfl
@[simp] theorem State.begin_encoder (p : Phase) : (s.begin p).encoder = s.encoder := rfl
@[simp] theorem State.begin_splitter (p : Phase) : (s.begin p).splitter = s.splitter := rfl
@[simp] theorem State.begin_compressor (p : Phase) : (s.begin p).compressor = s.compressor := rfl
@[simp] theorem State.begin_phase (p : Phase) : (s.begin p).phase = p := rfl
@[simp] theorem State.begin_request (p : Phase) : (s.begin p).request = none := rfl
@[simp] theorem State.begin_response (p : Phase) : (s.begin p).response = none := rfl
@[simp] theorem State.begin_status (p : Phase) : (s.begin p).status = s.status := rfl
@[simp] theorem State.begin_info (p : Phase) : (s.begin p).info = s.info := rfl

/-! `beginExpand` -/
@[simp] theorem beginExpand_tables (fb w : Bytes) (ws : Nat) : (beginExpand fb w ws s).tables = s.tables := rfl
@[simp] theorem beginExpand_fb (fb w : Bytes) (ws : Nat) : (beginExpand fb w ws s).fb = memOfBytes fb := rfl
@[simp] theorem beginExpand_w (fb w : Bytes) (ws : Nat) : (beginExpand fb w ws s).w = w := rfl
@[simp] theorem beginExpand_b (fb w : Bytes) (ws : Nat) : (beginExpand fb w ws s).b = s.b := rfl
@[simp] theorem beginExpand_src (fb w : Bytes) (ws : Nat) : (beginExpand fb w ws s).src = s.src := rfl
@[simp] theorem beginExpand_out (fb w : Bytes) (ws : Nat) : (beginExpand fb w ws s).out = [] := rfl
@[simp] theorem beginExpand_txt (fb w : Bytes) (ws : Nat) : (beginExpand fb w ws s).txt = s.txt := rfl
@[simp] theorem beginExpand_expander (fb w : Bytes) (ws : Nat) : (beginExpand fb w ws s).expander = { s.expander with ws := ws, i := 0, ptLog := [] } := rfl
@[simp] theorem beginExpand_decoder (fb w : Bytes) (ws : Nat) : (beginExpand fb w ws s).decoder = s.decoder := rfl
@[simp] theorem beginExpand_encoder (fb w : Bytes) (ws : Nat) : (beginExpand fb w ws s).encoder = s.encoder := rfl
@[simp] theorem beginExpand_splitter (fb w : Bytes) (ws : Nat) : (beginExpand fb w ws s).splitter = s.splitter := rfl
@[simp] theorem beginExpand_compressor (fb w : Bytes) (ws : Nat) : (beginExpand fb w ws s).compressor = s.compressor := rfl
@[simp] theorem beginExpand_phase (fb w : Bytes) (ws : Nat) : (beginExpand fb w ws s).phase = .expand := rfl
@[simp] theorem beginExpand_request (fb w : Bytes) (ws : Nat) : (beginExpand fb w ws s).request = none := rfl
@[simp] theorem beginExpand_response (fb w : Bytes) (ws : Nat) : (beginExpand fb w ws s).response = none := rfl
@[simp] theorem beginExpand_status (fb w : Bytes) (ws : Nat) : (beginExpand fb w ws s).status = s.status := rfl
@[simp] theorem beginExpand_info (fb w : Bytes) (ws : Nat) : (beginExpand fb w ws s).info = s.info := rfl

/-! `beginDecodeNext` -/
@[simp] theorem beginDecodeNext_tables (b : Bytes) (pos : Nat) (v : Variant) : (beginDecodeNext b pos v s).tables = s.tables := rfl
@[simp] theorem beginDecodeNext_fb (b : Bytes) (pos : Nat) (v : Variant) : (beginDecodeNext b pos v s).fb = s.fb := rfl
@[simp] theorem beginDecodeNext_w (b : Bytes) (pos : Nat) (v : Variant) : (beginDecodeNext b pos v s).w = s.w := rfl
@[simp] theorem beginDecodeNext_b (b : Bytes) (pos : Nat) (v : Variant) : (beginDecodeNext b pos v s).b = b := rfl
@[simp] theorem beginDecodeNext_src (b : Bytes) (pos : Nat) (v : Variant) : (beginDecodeNext b pos v s).src = s.src := rfl
@[simp] theorem beginDecodeNext_out (b : Bytes) (pos : Nat) (v : Variant) : (beginDecodeNext b pos v s).out = s.out := rfl
@[simp] theorem beginDecodeNext_txt (b : Bytes) (pos : Nat) (v : Variant) : (beginDecodeNext b pos v s).txt = s.txt := rfl
@[simp] theorem beginDecodeNext_expander (b : Bytes) (pos : Nat) (v : Variant) : (beginDecodeNext b pos v s).expander = s.expander := rfl
@[simp] theorem beginDecodeNext_decoder (b : Bytes) (pos : Nat) (v : Variant) : (beginDecodeNext b pos v s).decoder = { s.decoder with v := v, pos := pos } := rfl
@[simp] theorem beginDecodeNext_encoder (b : Bytes) (pos : Nat) (v : Variant) : (beginDecodeNext b pos v s).encoder = s.encoder := rfl
@[simp] theorem beginDecodeNext_splitter (b : Bytes) (pos : Nat) (v : Variant) : (beginDecodeNext b pos v s).splitter = s.splitter := rfl
@[simp] theorem beginDecodeNext_compressor (b : Bytes) (pos : Nat) (v : Variant) : (beginDecodeNext b pos v s).compressor = s.compressor := rfl
@[simp] theorem beginDecodeNext_phase (b : Bytes) (pos : Nat) (v : Variant) : (beginDecodeNext b pos v s).phase = .decodeNext := rfl
@[simp] theorem beginDecodeNext_request (b : Bytes) (pos : Nat) (v : Variant) : (beginDecodeNext b pos v s).request = none := rfl
@[simp] theorem beginDecodeNext_response (b : Bytes) (pos : Nat) (v : Variant) : (beginDecodeNext b pos v s).response = none := rfl
@[simp] theorem beginDecodeNext_status (b : Bytes) (pos : Nat) (v : Variant) : (beginDecodeNext b pos v s).status = s.status := rfl
@[simp] theorem beginDecodeNext_info (b : Bytes) (pos : Nat) (v : Variant) : (beginDecodeNext b pos v s).info = s.info := rfl

/-! `beginDecodeWord` -/
@[simp] theorem beginDecodeWord_tables (b : Bytes) (v : Variant) : (beginDecodeWord b v s).tables = s.tables := rfl
@[simp] theorem beginDecodeWord_fb (b : Bytes) (v : Variant) : (beginDecodeWord b v s).fb = s.fb := rfl
@[simp] theorem beginDecodeWord_w (b : Bytes) (v : Variant) : (beginDecodeWord b v s).w = s.w := rfl
@[simp] theorem beginDecodeWord_b (b : Bytes) (v : Variant) : (beginDecodeWord b v s).b = b := rfl
@[simp] theorem beginDecodeWord_src (b : Bytes) (v : Variant) : (beginDecodeWord b v s).src = s.src := rfl
@[simp] theorem beginDecodeWord_out (b : Bytes) (v : Variant) : (beginDecodeWord b v s).out = s.out := rfl
@[simp] theorem beginDecodeWord_txt (b : Bytes) (v : Variant) : (beginDecodeWord b v s).txt = [] := rfl
@[simp] theorem beginDecodeWord_expander (b : Bytes) (v : Variant) : (beginDecodeWord b v s).expander = s.expander := rfl
@[simp] theorem beginDecodeWord_decoder (b : Bytes) (v : Variant) : (beginDecodeWord b v s).decoder = { s.decoder with v := v, pos := 0 } := rfl
@[simp] theorem beginDecodeWord_encoder (b : Bytes) (v : Variant) : (beginDecodeWord b v s).encoder = s.encoder := rfl
@[simp] theorem beginDecodeWord_splitter (b : Bytes) (v : Variant) : (beginDecodeWord b v s).splitter = s.splitter := rfl
@[simp] theorem beginDecodeWord_compressor (b : Bytes) (v : Variant) : (beginDecodeWord b v s).compressor = s.compressor := rfl
@[simp] theorem beginDecodeWord_phase (b : Bytes) (v : Variant) : (beginDecodeWord b v s).phase = .decodeWord := rfl
@[simp] theorem beginDecodeWord_request (b : Bytes) (v : Variant) : (beginDecodeWord b v s).request = none := rfl
@[simp] theorem beginDecodeWord_response (b : Bytes) (v : Variant) : (beginDecodeWord b v s).response = none := rfl
@[simp] theorem beginDecodeWord_status (b : Bytes) (v : Variant) : (beginDecodeWord b v s).status = s.status := rfl
@[simp] theorem beginDecodeWord_info (b : Bytes) (v : Variant) : (beginDecodeWord b v s).info = s.info := rfl

/-! `beginEncode` -/
@[simp] theorem beginEncode_tables (src : Text) (v : Variant) (m : Option Nat) : (beginEncode src v m s).tables = s.tables := rfl
@[simp] theorem beginEncode_fb (src : Text) (v : Variant) (m : Option Nat) : (beginEncode src v m s).fb = s.fb := rfl
@[simp] theorem beginEncode_w (src : Text) (v : Variant) (m : Option Nat) : (beginEncode src v m s).w = s.w := rfl
@[simp] theorem beginEncode_b (src : Text) (v : Variant) (m : Option Nat) : (beginEncode src v m s).b = s.b := rfl
@[simp] theorem beginEncode_src (src : Text) (v : Variant) (m : Option Nat) : (beginEncode src v m s).src = src := rfl
@[simp] theorem beginEncode_out (src : Text) (v : Variant) (m : Option Nat) : (beginEncode src v m s).out = [] := rfl
@[simp] theorem beginEncode_txt (src : Text) (v : Variant) (m : Option Nat) : (beginEncode src v m s).txt = s.txt := rfl
@[simp] theorem beginEncode_expander (src : Text) (v : Variant) (m : Option Nat) : (beginEncode src v m s).expander = s.expander := rfl
@[simp] theorem beginEncode_decoder (src : Text) (v : Variant) (m : Option Nat) : (beginEncode src v m s).decoder = s.decoder := rfl
@[simp] theorem beginEncode_encoder (src : Text) (v : Variant) (m : Option Nat) : (beginEncode src v m s).encoder = { s.encoder with v := v, maxLen := m, k := 0 } := rfl
@[simp] theorem beginEncode_splitter (src : Text) (v : Variant) (m : Option Nat) : (beginEncode src v m s).splitter = s.splitter := rfl
@[simp] theorem beginEncode_compressor (src : Text) (v : Variant) (m : Option Nat) : (beginEncode src v m s).compressor = s.compressor := rfl
@[simp] theorem beginEncode_phase (src : Text) (v : Variant) (m : Option Nat) : (beginEncode src v m s).phase = .encode := rfl
@[simp] theorem beginEncode_request (src : Text) (v : Variant) (m : Option Nat) : (beginEncode src v m s).request = none := rfl
@[simp] theorem beginEncode_response (src : Text) (v : Variant) (m : Option Nat) : (beginEncode src v m s).response = none := rfl
@[simp] theorem beginEncode_status (src : Text) (v : Variant) (m : Option Nat) : (beginEncode src v m s).status = s.status := rfl
@[simp] theorem beginEncode_info (src : Text) (v : Variant) (m : Option Nat) : (beginEncode src v m s).info = s.info := rfl

/-! `beginSplit` -/
@[simp] theorem beginSplit_tables (b : Bytes) (d : Option Byte) : (beginSplit b d s).tables = s.tables := rfl
@[simp] theorem beginSplit_fb (b : Bytes) (d : Option Byte) : (beginSplit b d s).fb = s.fb := rfl
@[simp] theorem beginSplit_w (b : Bytes) (d : Option Byte) : (beginSplit b d s).w = s.w := rfl
@[simp] theorem beginSplit_b (b : Bytes) (d : Option Byte) : (beginSplit b d s).b = b := rfl
@[simp] theorem beginSplit_src (b : Bytes) (d : Option Byte) : (beginSplit b d s).src = s.src := rfl
@[simp] theorem beginSplit_out (b : Bytes) (d : Option Byte) : (beginSplit b d s).out = s.out := rfl
@[simp] theorem beginSplit_txt (b : Bytes) (d : Option Byte) : (beginSplit b d s).txt = s.txt := rfl
@[simp] theorem beginSplit_expander (b : Bytes) (d : Option Byte) : (beginSplit b d s).expander = s.expander := rfl
@[simp] theorem beginSplit_decoder (b : Bytes) (d : Option Byte) : (beginSplit b d s).decoder = s.decoder := rfl
@[simp] theorem beginSplit_encoder (b : Bytes) (d : Option Byte) : (beginSplit b d s).encoder = s.encoder := rfl
@[simp] theorem beginSplit_splitter (b : Bytes) (d : Option Byte) : (beginSplit b d s).splitter = { delim := d.getD delimiter, p := 0, words := [[]] } := rfl
@[simp] theorem beginSplit_compressor (b : Bytes) (d : Option Byte) : (beginSplit b d s).compressor = s.compressor := rfl
@[simp] theorem beginSplit_phase (b : Bytes) (d : Option Byte) : (beginSplit b d s).phase = .split := rfl
@[simp] theorem beginSplit_request (b : Bytes) (d : Option Byte) : (beginSplit b d s).request = none := rfl
@[simp] theorem beginSplit_response (b : Bytes) (d : Option Byte) : (beginSplit b d s).response = none := rfl
@[simp] theorem beginSplit_status (b : Bytes) (d : Option Byte) : (beginSplit b d s).status = s.status := rfl
@[simp] theorem beginSplit_info (b : Bytes) (d : Option Byte) : (beginSplit b d s).info = s.info := rfl

/-! `beginCompress` -/
@[simp] theorem beginCompress_tables (b : Bytes) (m : Option Nat) : (beginCompress b m s).tables = s.tables := rfl
@[simp] theorem beginCompress_fb (b : Bytes) (m : Option Nat) : (beginCompress b m s).fb = s.fb := rfl
@[simp] theorem beginCompress_w (b : Bytes) (m : Option Nat) : (beginCompress b m s).w = s.w := rfl
@[simp] theorem beginCompress_b (b : Bytes) (m : Option Nat) : (beginCompress b m s).b = b := rfl
@[simp] theorem beginCompress_src (b : Bytes) (m : Option Nat) : (beginCompress b m s).src = s.src := rfl
@[simp] theorem beginCompress_out (b : Bytes) (m : Option Nat) : (beginCompress b m s).out = [] := rfl
@[simp] theorem beginCompress_txt (b : Bytes) (m : Option Nat) : (beginCompress b m s).txt = s.txt := rfl
@[simp] theorem beginCompress_expander (b : Bytes) (m : Option Nat) : (beginCompress b m s).expander = s.expander := rfl
@[simp] theorem beginCompress_decoder (b : Bytes) (m : Option Nat) : (beginCompress b m s).decoder = s.decoder := rfl
@[simp] theorem beginCompress_encoder (b : Bytes) (m : Option Nat) : (beginCompress b m s).encoder = s.encoder := rfl
@[simp] theorem beginCompress_splitter (b : Bytes) (m : Option Nat) : (beginCompress b m s).splitter = s.splitter := rfl
@[simp] theorem beginCompress_compressor (b : Bytes) (m : Option Nat) : (beginCompress b m s).compressor = { maxLen := m, i := 0 } := rfl
@[simp] theorem beginCompress_phase (b : Bytes) (m : Option Nat) : (beginCompress b m s).phase = .compress := rfl
@[simp] theorem beginCompress_request (b : Bytes) (m : Option Nat) : (beginCompress b m s).request = none := rfl
@[simp] theorem beginCompress_response (b : Bytes) (m : Option Nat) : (beginCompress b m s).response = none := rfl
@[simp] theorem beginCompress_status (b : Bytes) (m : Option Nat) : (beginCompress b m s).status = s.status := rfl
@[simp] theorem beginCompress_info (b : Bytes) (m : Option Nat) : (beginCompress b m s).info = s.info := rfl

end Sys2Proof.Machine
end

