-- ==== Sys2Proof/Laws/Memory.lean ====
section
/-! SUPPORT. The full buffer: its canonical form, and what one byte of it reads as. -/

namespace Sys2Proof.Machine

theorem cellsWf_mono (xs : List Host.Cell) (a b size : Nat) (h : b ≤ a) (hw : cellsWf a size xs = true) :
    cellsWf b size xs = true := by
  cases xs with
  | nil => rfl
  | cons c rest =>
    obtain ⟨x, v⟩ := c
    simp only [cellsWf, Bool.and_eq_true, decide_eq_true_eq] at hw ⊢
    exact ⟨⟨⟨by omega, hw.1.1.2⟩, hw.1.2⟩, hw.2⟩

theorem cellsWf_cellsFrom (xs : Bytes) (a size : Nat) (h : a + xs.length ≤ size) :
    cellsWf a size (cellsFrom a xs) = true := by
  induction xs generalizing a with
  | nil => rfl
  | cons x xs ih =>
    have h' : a + 1 + xs.length ≤ size := by simp at h; omega
    simp only [cellsFrom]
    split
    · exact cellsWf_mono _ _ _ _ (by omega) (ih _ h')
    · next hx =>
      simp only [cellsWf, Bool.and_eq_true, decide_eq_true_eq, bne_iff_ne, ne_eq]
      exact ⟨⟨⟨le_refl _, by omega⟩, hx⟩, ih _ h'⟩

/-- The one operation that writes the full buffer, loading it at EXPAND's acceptance, gives the canonical form. -/
theorem memOfBytes_wf (xs : Bytes) : (memOfBytes xs).wf = true := by
  simpa [Memory.wf, memOfBytes] using cellsWf_cellsFrom xs 0 xs.length (by omega)

/-- The buffer of a reset machine is in canonical form. -/
theorem reset_fb_wf : State.reset.fb.wf = true := rfl

theorem lookup_cellsFrom (xs : Bytes) (a n : Nat) :
    (List.lookup n (cellsFrom a xs)).getD 0#8 = if a ≤ n then xs.getD (n - a) 0#8 else 0#8 := by
  induction xs generalizing a with
  | nil => simp [cellsFrom]
  | cons x xs ih =>
    by_cases hx : x = 0#8
    · simp only [cellsFrom, if_pos hx, ih]
      by_cases h : a = n
      · subst h; simp [hx]
      · by_cases h' : a ≤ n
        · obtain ⟨k, rfl⟩ : ∃ k, n = a + 1 + k := ⟨n - a - 1, by omega⟩
          simp [h', show a + 1 + k - a = k + 1 by omega]
        · simp [h', show ¬ a + 1 ≤ n by omega]
    · simp only [cellsFrom, if_neg hx, List.lookup_cons]
      by_cases h : n = a
      · subst h; simp
      · have hb : (n == a) = false := by simpa using h
        rw [hb, ih]
        by_cases h' : a ≤ n
        · obtain ⟨k, rfl⟩ : ∃ k, n = a + 1 + k := ⟨n - a - 1, by omega⟩
          simp [h', show a + 1 + k - a = k + 1 by omega]
        · simp [h', show ¬ a + 1 ≤ n by omega]

/-- A byte of a loaded buffer is the byte of the sequence. -/
theorem memByte_memOfBytes (xs : Bytes) (n : Nat) : memByte (memOfBytes xs) n = xs.getD n 0#8 := by
  simp [memByte, memOfBytes, lookup_cellsFrom]

@[simp] theorem memOfBytes_size (xs : Bytes) : (memOfBytes xs).size = xs.length := rfl

@[simp] theorem memRead_length (m : Memory) (a n : Nat) : (memRead m a n).length = n := by simp [memRead]

theorem memRead_getElem? (m : Memory) (a n k : Nat) (h : k < n) : (memRead m a n)[k]? = some (memByte m (a + k)) := by
  simp [memRead, h]

end Sys2Proof.Machine
end

