-- ==== Sys2Proof/Laws/Ops.lean ====
section
/-! SUPPORT. What the shared operations and a step can do. -/

namespace Sys2Proof.Machine

/-- The next state of an element: every element's meaning is a next state. -/
def effect : Instr → State → State
  | .ptr len5 jv, s => ptrEffect len5 jv s
  | .lit b0, s => litEffect b0 s
  | .code2D0 a second, s => code2Effect (leadD0 a) second s
  | .code2D8 a second, s => code2Effect (leadD8 a) second s
  | .code2DA second, s => code2Effect leadDA second s
  | .code2E2 a second, s => code2Effect (leadE2 a) second s
  | .code3 a b1 b2, s => codeEffect (leadF0 a) (code3Value (leadF0 a) b1 b2) 3 s
  | .code1 b0, s => codeEffect b0 (code1Value b0) 1 s
  | .escNamed body, s => escNamedEffect body s
  | .escHex body, s => escHexEffect body s
  | .crlf, s => emitToken crlfText 2 s
  | .char c, s => emitToken [c] 1 s

theorem exec_eq_effect (i : Instr) (s : State) : exec i s = .next (effect i s) := by cases i <;> rfl

/-- The next state of a step. -/
def stepTo (s : State) : State :=
  match fetch s with
  | .element i => effect i s
  | .command t => t

theorem step_eq_stepTo (s : State) : step s = .next (stepTo s) := by
  cases h : fetch s with
  | element i => simp [step, stepTo, h, exec_eq_effect]
  | command t => simp [step, stepTo, h]

@[simp] theorem advance_eq_stepTo (s : State) : advance s = stepTo s := by simp [advance, step_eq_stepTo]

theorem stepTo_of_element {s : State} {i : Instr} (h : fetch s = .element i) : stepTo s = effect i s := by
  simp [stepTo, h]

theorem stepTo_of_command {s t : State} (h : fetch s = .command t) : stepTo s = t := by simp [stepTo, h]

/-- An idle block with no request stays as it is. -/
theorem stepTo_idle {s : State} (h : s.phase = .idle) (hr : s.request = none) : stepTo s = s := by
  apply stepTo_of_command
  simp [fetch, h, idleStep, hr]

/-- Once a command has completed, further steps change nothing. -/
theorem runFor_idle {s : State} (h : s.phase = .idle) (hr : s.request = none) (n : Nat) : runFor n s = s := by
  induction n with
  | zero => rfl
  | succ n ih => simp [runFor, stepTo_idle h hr, ih]

theorem runFor_add (m n : Nat) (s : State) : runFor (m + n) s = runFor n (runFor m s) := by
  induction m generalizing s with
  | zero => simp [runFor]
  | succ m ih => rw [Nat.succ_add]; exact ih _

/-- A command completes with at most one response. -/
theorem Completes.unique {c : Command} {s : State} {r r' : Response} (h : Completes c s r) (h' : Completes c s r') :
    r = r' := by
  obtain ⟨m, hm, hm', hr⟩ := h
  obtain ⟨n, hn, hn', hr'⟩ := h'
  have key : ∀ k, runFor (m + k) (s.submit c) = runFor m (s.submit c) := fun k => by
    rw [runFor_add, runFor_idle hm hm']
  have key' : ∀ k, runFor (n + k) (s.submit c) = runFor n (s.submit c) := fun k => by
    rw [runFor_add, runFor_idle hn hn']
  have : runFor m (s.submit c) = runFor n (s.submit c) := by rw [← key n, ← key' m, Nat.add_comm]
  rw [this] at hr
  exact Option.some.inj (hr.symm.trans hr')

/-- What a pointer can do: raise UnmappedJump, pass through, or copy. -/
theorem ptrEffect_cases (len5 : BitVec 5) (jv : JumpIndex) (s : State) :
    (jumpLookup s.tables.jtInv jv = none
        ∧ ptrEffect len5 jv s = (ptrFields len5 jv s).raise .unmappedJump s.expander.i)
      ∨ ∃ jump, jumpLookup s.tables.jtInv jv = some jump
        ∧ ((rangeOutOfBounds (sourceStart s.expander.ws s.expander.i jump)
              (sourceStop (sourceStart s.expander.ws s.expander.i jump) (pointerLength len5)) s.fb.size = true
            ∧ ptrEffect len5 jv s = ptrPassThrough (ptrRange jump (ptrFields len5 jv s)))
          ∨ (rangeOutOfBounds (sourceStart s.expander.ws s.expander.i jump)
              (sourceStop (sourceStart s.expander.ws s.expander.i jump) (pointerLength len5)) s.fb.size = false
            ∧ ptrEffect len5 jv s = ptrCopy (ptrRange jump (ptrFields len5 jv s)))) := by
  rcases hj : jumpLookup s.tables.jtInv jv with _ | jump
  · exact .inl ⟨rfl, by simp [ptrEffect, hj]⟩
  · refine .inr ⟨jump, rfl, ?_⟩
    rcases ho : rangeOutOfBounds (sourceStart s.expander.ws s.expander.i jump)
      (sourceStop (sourceStart s.expander.ws s.expander.i jump) (pointerLength len5)) s.fb.size with _ | _
    · exact .inr ⟨rfl, by simp [ptrEffect, hj, ptrOutcome, ptrRange, ptrFields, ho]⟩
    · exact .inl ⟨rfl, by simp [ptrEffect, hj, ptrOutcome, ptrRange, ptrFields, ho]⟩

/-- Delivering a Token ends DECODE_NEXT; in any other phase it appends the Token to TXT. -/
theorem deliverToken_cases (s : State) :
    (s.phase = .decodeNext
        ∧ deliverToken s = s.respond (.ok (.decodedNext s.decoder.tok s.decoder.newpos)))
      ∨ (s.phase ≠ .decodeNext ∧ deliverToken s = s.emitText s.decoder.tok) := by
  cases h : s.phase <;> simp [deliverToken, h]

/-- Emitting a Token's Code, or EncodingError(k). -/
theorem emitToken_cases (t : Token) (width : Nat) (s : State) :
    (∃ val, reverseLookup (s.tables.ri s.encoder.v) t = some val ∧ emitToken t width s = emitCode val width s)
      ∨ (reverseLookup (s.tables.ri s.encoder.v) t = none
        ∧ emitToken t width s = s.raise .encodingError s.encoder.k) := by
  rcases h : reverseLookup (s.tables.ri s.encoder.v) t with _ | val
  · exact .inr ⟨rfl, by simp [emitToken, h]⟩
  · exact .inl ⟨val, rfl, by simp [emitToken, h]⟩

/-- What the capacity check can do. -/
theorem checkCapacity_cases (maxLen : Option Nat) (r : Result) (s : State) :
    (∃ m, maxLen = some m ∧ m < s.out.length ∧ checkCapacity maxLen r s = s.raise .capacityError s.out.length)
      ∨ ((∀ m, maxLen = some m → s.out.length ≤ m) ∧ checkCapacity maxLen r s = s.respond (.ok r)) := by
  cases maxLen with
  | none => exact .inr ⟨by simp, rfl⟩
  | some m =>
    by_cases h : m < s.out.length
    · exact .inl ⟨m, rfl, h, by simp [checkCapacity, h]⟩
    · exact .inr ⟨by simp; omega, by simp [checkCapacity, h]⟩

end Sys2Proof.Machine
end

