-- ==== Sys2Proof/Laws/PerInstr.lean ====
section
/-! SUPPORT. Families of statements about every stream element as syntax. -/

namespace Sys2Proof.Laws.EncodedWidth

/-- An element's encoding is as long as its width, and its width is not 0 (R70). -/
def Statement (i : Instr) : Prop := (encode i).length = i.width ∧ 0 < i.width

theorem ptr (len5 : BitVec 5) (jv : JumpIndex) : Statement (.ptr len5 jv) := ⟨rfl, Nat.zero_lt_succ _⟩
theorem lit (b0 : Byte) : Statement (.lit b0) := ⟨rfl, Nat.zero_lt_succ _⟩
theorem code2D0 (a : BitVec 3) (second : Option Byte) : Statement (.code2D0 a second) := by
  cases second <;> exact ⟨rfl, Nat.zero_lt_succ _⟩
theorem code2D8 (a : BitVec 1) (second : Option Byte) : Statement (.code2D8 a second) := by
  cases second <;> exact ⟨rfl, Nat.zero_lt_succ _⟩
theorem code2DA (second : Option Byte) : Statement (.code2DA second) := by
  cases second <;> exact ⟨rfl, Nat.zero_lt_succ _⟩
theorem code2E2 (a : BitVec 1) (second : Option Byte) : Statement (.code2E2 a second) := by
  cases second <;> exact ⟨rfl, Nat.zero_lt_succ _⟩
theorem code3 (a : BitVec 2) (b1 b2 : Byte) : Statement (.code3 a b1 b2) := ⟨rfl, Nat.zero_lt_succ _⟩
theorem code1 (b0 : Byte) : Statement (.code1 b0) := ⟨rfl, Nat.zero_lt_succ _⟩
theorem escNamed (body : Text) : Statement (.escNamed body) := by
  simp [Statement, encode, StreamWords.length, bracketGroup, Instr.width]
theorem escHex (body : Text) : Statement (.escHex body) := by
  simp [Statement, encode, StreamWords.length, bracketGroup, Instr.width]
theorem crlf : Statement .crlf := ⟨rfl, Nat.zero_lt_succ _⟩
theorem char (c : Char) : Statement (.char c) := ⟨rfl, Nat.zero_lt_succ _⟩

end Sys2Proof.Laws.EncodedWidth
end

