-- ==== Sys2Proof/Laws/Tables.lean ====
section
/-! SUPPORT. The tables: the reverse index entry by entry, and what a reset machine's tables are known to meet. -/

namespace Sys2Proof.Machine

/-- One step of the construction writes the least of the old and the new Code at its Token and no other entry. -/
theorem reverseLookup_reverseInsert (t u : Token) (c : Code) (ri : ReverseIndex) :
    reverseLookup (reverseInsert t c ri) u =
      if u = t then
        some (match reverseLookup ri t with | some c' => if c.toNat < c'.toNat then c else c' | none => c)
      else reverseLookup ri u := by
  induction ri with
  | nil =>
    by_cases h : u = t
    · simp [reverseInsert, reverseLookup, h]
    · have hb : (u == t) = false := by simpa using h
      simp [reverseInsert, reverseLookup, List.lookup_cons, h, hb]
  | cons e rest ih =>
    obtain ⟨t', c'⟩ := e
    simp only [reverseLookup] at ih
    by_cases ht : t' = t
    · subst ht
      by_cases h : u = t'
      · simp [reverseInsert, reverseLookup, h]
      · have hb : (u == t') = false := by simpa using h
        simp [reverseInsert, reverseLookup, List.lookup_cons, h, hb]
    · have hb' : (t == t') = false := by simpa using Ne.symm ht
      simp only [reverseInsert, if_neg ht, reverseLookup, List.lookup_cons, hb', ih]
      by_cases h : u = t'
      · subst h
        simp [ht]
      · have hb : (u == t') = false := by simpa using h
        simp [hb]

/-- A text is one bracket group exactly when it is the group of a body without a closing brace. -/
theorem groupOf_eq_some {t body : Text} : groupOf t = some body ↔ t = bracketGroup body ∧ rbrace ∉ body := by
  cases t with
  | nil => simp [groupOf, bracketGroup]
  | cons c rest =>
    simp only [groupOf, bracketGroup, List.cons.injEq]
    constructor
    · intro h
      split at h
      · next hc =>
        obtain ⟨hn, rest', hr⟩ := groupBody_eq_some.mp hc.2
        cases h
        refine ⟨⟨hc.1, ?_⟩, hn⟩
        have hl := congrArg List.length hr
        have : rest' = [] := by
          simp at hl
          exact List.length_eq_zero_iff.mp (by omega)
        simpa [this] using hr
      · cases h
    · rintro ⟨⟨rfl, rfl⟩, hn⟩
      have hg : groupBody (body ++ [rbrace]) = some body := groupBody_eq_some.mpr ⟨hn, [], rfl⟩
      simp [hg]

/-- A constrained map meets R22 and R23. -/
theorem constrainCharMap_wf (m : CharMap) : charMapWf (constrainCharMap m) = true := by
  simp only [constrainCharMap]
  split
  · next h => simp only [Bool.and_eq_true] at h; exact h.1
  · decide

theorem constrainCharMap_facts (m : CharMap) : charMapSourceFacts (constrainCharMap m) = true := by
  simp only [constrainCharMap]
  split
  · next h => simp only [Bool.and_eq_true] at h; exact h.2
  · decide

/-- A map that meets R22 and R23 is left as it is: constraining says nothing more. -/
theorem constrainCharMap_of_wf (m : CharMap) (h : charMapWf m = true) (h' : charMapSourceFacts m = true) :
    constrainCharMap m = m := by
  simp [constrainCharMap, h, h']

theorem resetJump_coherent : jumpCoherent resetJumpForward resetJumpInverse = true := by
  simp only [resetJumpForward, resetJumpInverse]
  split
  · assumption
  · rfl

end Sys2Proof.Machine
end

