-- ==== Sys2Proof/Tests/Slice0.lean ====
section
/-! SUPPORT. Tests on fixed values taken from spec/, and a witness for the hypotheses of every statement. -/

namespace Sys2Proof.Tests

open Sys2Proof Sys2Proof.Machine

/-! ### Fixtures -/

/-- The fixture `CM_test` (95_test_vectors.md section 1), keys in rising order. -/
def mapFixture : CharMap :=
  [(0x0A#24, ['A']), (0x0B#24, ['B']), (0x0C#24, ['C']), (0x5E#24, crlfText),
   (0x5F#24, bracketGroup ['E', 'N', 'D']), (0x8A#24, ['A']), (0xD005#24, ['é']),
   (0xE301#24, bracketGroup ['C', 'o', 'l', 'o', 'r', ' ', '0', '1']),
   (0xF20102#24, bracketGroup ['T', 'r', 'i'])]

/-- The first offsets of the fixture `JT_ref` (95_test_vectors.md section 2): below 254 index and offset are equal. -/
def jumpFixture : JumpForward := [0#13, 1#13, 2#13, 3#13, 4#13, 5#13, 6#13, 7#13]

/-- The same read from index to offset. -/
def jumpInverseFixture : JumpInverse :=
  [(0#13, 0), (1#13, 1), (2#13, 2), (3#13, 3), (4#13, 4), (5#13, 5), (6#13, 6), (7#13, 7)]

/-- The fixture tables; `RI` is what R241 builds. -/
def tablesFixture : Tables where
  cm0 := mapFixture
  cm1 := mapFixture
  ri0 := reverseBuild mapFixture
  ri1 := reverseBuild mapFixture
  jtInv := jumpInverseFixture
  jt := jumpFixture

/-- The reset state, with the fixture tables. -/
def idleState : State := { State.reset with tables := tablesFixture }

/-- A stream where its engine fetches next. -/
def streamState (ws : StreamWords) : State := idleState.withStream ws

/-- EXPAND about to run the element at index i of W, with a full buffer and a window offset. -/
def expandState (fb w : Bytes) (ws i : Nat) : State :=
  { idleState with
    phase := .expand, fb := memOfBytes fb, w := w, expander := { idleState.expander with ws := ws, i := i } }

/-- ENCODE at index k of S, with an output so far. -/
def encodeState (src : Text) (k : Nat) (out : Bytes) (maxLen : Option Nat) : State :=
  { idleState with phase := .encode, src := src, out := out, encoder := { idleState.encoder with k := k, maxLen := maxLen } }

/-- DECODE_NEXT at pos of B. -/
def nextState (b : Bytes) (pos : Nat) : State :=
  { idleState with phase := .decodeNext, b := b, decoder := { idleState.decoder with pos := pos } }

/-! ### WellFormed refuses ill-formed elements -/

/-- R101: "A CODE2_LEAD byte is never CODE1". -/
theorem test_code1_of_code2_lead_refused : (Instr.code1 0xE2#8).wellFormed = false := by decide

/-- R81, R121: a group ends at its first closing brace. -/
theorem test_escNamed_with_closing_brace_refused : (Instr.escNamed ['a', rbrace]).wellFormed = false := by decide

/-- R81, R121, the same for a hex escape. -/
theorem test_escHex_with_closing_brace_refused : (Instr.escHex [rbrace, '1']).wellFormed = false := by decide

/-- R81: an opening brace starts an ESC element. -/
theorem test_char_of_opening_brace_refused : (Instr.char lbrace).wellFormed = false := by decide

/-- R81: "a lone closing brace" is a CHAR. -/
theorem test_char_of_closing_brace_accepted : (Instr.char rbrace).wellFormed = true := by decide

/-! ### Decoding words written out from 30_encoding.md -/

/-- 95_test_vectors.md section 4: F1 45 10 is 111100 01010 0010100010000, L = 10, jv = 1296. -/
theorem test_decode_ptr : decodeCompressed [0xF1#8, 0x45#8, 0x10#8] = .ok (.ptr 10#5 1296#13) := by decide

/-- 95_test_vectors.md section 4: F2 E1 00 has L = 23 and jv = 256. -/
theorem test_decode_ptr_split_fields : decodeCompressed [0xF2#8, 0xE1#8, 0x00#8] = .ok (.ptr 23#5 256#13) := by decide

/-- 95_test_vectors.md section 4: the encoding of length 14 and index 1296. -/
theorem test_encode_ptr : pointerBytes 10#5 1296#13 = [0xF1#8, 0x45#8, 0x10#8] := by decide

/-- R71: just past the lead range. -/
theorem test_decode_lit : decodeCompressed [0xF4#8, 0x00#8, 0x00#8] = .ok (.lit 0xF4#8) := by decide

/-- R157, vector X11: a lead with one byte after it. -/
theorem test_decode_lit_short_lead : decodeCompressed [0xF1#8, 0x00#8] = .ok (.lit 0xF1#8) := by decide

/-- R78: row lead D0..D7, pattern 11010AAA. -/
theorem test_decode_code2D0 : decodeCode [0xD7#8, 0xF0#8] = .ok (.code2D0 7#3 (some 0xF0#8)) := by decide

/-- R78: row lead D8..D9, pattern 1101100A. -/
theorem test_decode_code2D8 : decodeCode [0xD8#8, 0x00#8] = .ok (.code2D8 0#1 (some 0x00#8)) := by decide

/-- R78: row lead DA. -/
theorem test_decode_code2DA : decodeCode [0xDA#8, 0x01#8] = .ok (.code2DA (some 0x01#8)) := by decide

/-- R78: row lead E2..E3, pattern 1110001A; the lead last in the input keeps its row (R100). -/
theorem test_decode_code2E2 :
    decodeCode [0xE3#8, 0x01#8] = .ok (.code2E2 1#1 (some 0x01#8)) ∧ decodeCode [0xE2#8] = .ok (.code2E2 0#1 none) := by
  decide

/-- R79: pattern 111100AA and two more bytes. -/
theorem test_decode_code3 : decodeCode [0xF2#8, 0x01#8, 0x02#8, 0x0A#8] = .ok (.code3 2#2 0x01#8 0x02#8) := by decide

/-- R77, R101: DB is one byte, and so is F1 with one byte after it. -/
theorem test_decode_code1 :
    decodeCode [0xDB#8, 0xD0#8] = .ok (.code1 0xDB#8) ∧ decodeCode [0xF1#8, 0x0A#8] = .ok (.code1 0xF1#8) := by decide

/-- R84, R122: a group that is a Token. -/
theorem test_decode_escNamed :
    decodeText (isTokenOf tablesFixture.ri0) (bracketGroup ['E', 'N', 'D'] ++ ['A']) = .ok (.escNamed ['E', 'N', 'D']) := by
  decide +kernel

/-- R121: in `{a{b}c}` the group is `{a{b}`; it is no Token. -/
theorem test_decode_escHex :
    decodeText (isTokenOf tablesFixture.ri0) ([lbrace, 'a', lbrace, 'b', rbrace, 'c', rbrace])
      = .ok (.escHex ['a', lbrace, 'b']) := by
  decide +kernel

/-- R81: CR LF is one element; a CR with no LF after it is a CHAR. -/
theorem test_decode_crlf :
    decodeText (fun _ => false) [charCR, charLF] = .ok .crlf
      ∧ decodeText (fun _ => false) [charCR, 'A'] = .ok (.char charCR) := by decide

/-- R121: a lone LF is a CHAR. -/
theorem test_decode_char : decodeText (fun _ => false) [charLF, charCR] = .ok (.char charLF) := by decide

/-- The words of the opcode table, numbered as the table numbers them (log 31). -/
theorem test_decodeTableWord :
    decodeTableWord 24 0xF14510 = some (.ptr 10#5 1296#13) ∧ decodeTableWord 16 0xD005 = some (.code2D0 0#3 (some 0x05#8))
      ∧ decodeTableWord 8 0x0A = some (.lit 0x0A#8) ∧ decodeTableWord 24 0x0D = some .crlf
      ∧ decodeTableWord 24 0x41 = some (.char 'A') := by decide +kernel

/-! ### One step of each element -/

/-- Vector X7: end = N - 1 is in bounds, and the copy includes the pointer's own bytes. -/
theorem test_step_ptr_expands :
    (advance (expandState [0x0A#8, 0x0B#8, 0x0C#8, 0xF0#8, 0x40#8, 0x03#8] [0x0A#8, 0x0B#8, 0x0C#8, 0xF0#8, 0x40#8, 0x03#8]
      0 3)).out = [0x0A#8, 0x0B#8, 0x0C#8, 0xF0#8, 0x40#8, 0x03#8] := by decide +kernel

/-- Vector X6: end = N is out of bounds by one. -/
theorem test_step_ptr_passes_through :
    (advance (expandState [0x0A#8, 0x0B#8, 0x0C#8, 0xF0#8, 0x60#8, 0x03#8] [0x0A#8, 0x0B#8, 0x0C#8, 0xF0#8, 0x60#8, 0x03#8]
      0 3)).expander.ptLog = [3] := by decide +kernel

/-- Vector X11: the lead is copied and the scan advances 1. -/
theorem test_step_lit :
    (advance (expandState [] [0x0A#8, 0xF1#8, 0x00#8] 0 1)).out = [0xF1#8]
      ∧ (advance (expandState [] [0x0A#8, 0xF1#8, 0x00#8] 0 1)).expander.i = 2 := by decide +kernel

/-- R102: D0 06 is unknown and gives the escape with four digits. -/
theorem test_step_code2D0 :
    (advance (streamState (.code [0xD0#8, 0x06#8]))).txt = bracketGroup ['0', 'x', 'D', '0', '0', '6'] := by
  decide +kernel

/-- R102: D9 FE takes its second byte whatever its value. -/
theorem test_step_code2D8 :
    (advance (streamState (.code [0xD9#8, 0xFE#8]))).decoder.code = 0xD9FE#24 := by decide +kernel

/-- R102: DA as the last byte is TruncatedCode at its index. -/
theorem test_step_code2DA :
    (advance (nextState [0x0A#8, 0xDA#8] 1)).response = some (.err .truncatedCode 1) := by decide +kernel

/-- Fixture: E3 01 is `{Color 01}`. -/
theorem test_step_code2E2 :
    (advance (nextState [0xE3#8, 0x01#8] 0)).response
      = some (.ok (.decodedNext (bracketGroup ['C', 'o', 'l', 'o', 'r', ' ', '0', '1']) 2)) := by decide +kernel

/-- R103: F0 00 05 is unknown and gives six digits; the index after it is 3. -/
theorem test_step_code3 :
    (advance (nextState [0xF0#8, 0x00#8, 0x05#8, 0x0A#8] 0)).response
      = some (.ok (.decodedNext (bracketGroup ['0', 'x', 'F', '0', '0', '0', '0', '5']) 3)) := by decide +kernel

/-- Vectors D1 and D3: 8A is the second Code of `A`. -/
theorem test_step_code1 :
    (advance (streamState (.code [0x8A#8]))).txt = ['A'] ∧ (advance (streamState (.code [0x41#8]))).decoder.tok
      = bracketGroup ['0', 'x', '4', '1'] := by decide +kernel

/-- Vector E6: the whole top byte is kept. -/
theorem test_step_escNamed :
    (advance (streamState (.text (bracketGroup ['T', 'r', 'i'])))).out = [0xF2#8, 0x01#8, 0x02#8] := by decide +kernel

/-- Vectors E15 and E17: either digit case; the width is the value's. -/
theorem test_step_escHex :
    (advance (streamState (.text (bracketGroup ['0', 'x', 'A', 'b', 'C', 'd'])))).out = [0xAB#8, 0xCD#8]
      ∧ (advance (streamState (.text (bracketGroup ['0', 'x', '0', '0', '4', '1'])))).out = [0x41#8] := by decide +kernel

/-- Vectors E34 and E35: an upper-case X and seven digits are refused. -/
theorem test_step_escHex_refuses :
    (advance (streamState (.text (bracketGroup ['0', 'X', '4', '1'])))).response = some (.err .encodingError 0)
      ∧ (advance (streamState (.text (bracketGroup ['0', 'x', '1', '2', '3', '4', '5', '6', '7'])))).response
        = some (.err .encodingError 0) := by decide +kernel

/-- Vector E23: CR LF at index 1 of `A`, CR, LF, `B`. -/
theorem test_step_crlf :
    (advance (encodeState ['A', charCR, charLF, 'B'] 1 [0x0A#8] none)).out = [0x0A#8, 0x5E#8]
      ∧ (advance (encodeState ['A', charCR, charLF, 'B'] 1 [0x0A#8] none)).encoder.k = 3 := by decide +kernel

/-- Vectors E1 and E28: the least Code of `A`; a lone LF has none. -/
theorem test_step_char :
    (advance (streamState (.text ['A']))).out = [0x0A#8]
      ∧ (advance (encodeState ['A', charLF] 1 [0x0A#8] none)).response = some (.err .encodingError 1) := by decide +kernel

/-- 95_test_vectors.md section 9, the tie-break: of (4, 9) and (4, 4) the smaller distance. -/
theorem test_bestMatch_tie :
    bestMatch 3900 [0x01#8, 0x02#8, 0x03#8, 0x04#8, 0x09#8, 0x01#8, 0x02#8, 0x03#8, 0x04#8] [0x01#8, 0x02#8, 0x03#8, 0x04#8]
      = some (4, 4) := by decide +kernel

/-! ### Witnesses: the hypotheses of every statement that has some can be met -/

/-- The lengths and indices at the ends of their ranges. -/
theorem witness_PointerBytesAreWireExact :
    (∃ length j : Nat, length = 4 ∧ j = 0 ∧ 4 ≤ length ∧ length ≤ 35 ∧ j < 8192)
      ∧ ∃ length j : Nat, length = 35 ∧ j = 8191 ∧ 4 ≤ length ∧ length ≤ 35 ∧ j < 8192 :=
  ⟨⟨4, 0, by decide⟩, ⟨35, 8191, by decide⟩⟩

/-- Lead bytes at both ends of PTR_LEAD, with the least and the greatest length. -/
theorem witness_PointerFieldsOfBytes :
    isPtrLead 0xF0#8 = true ∧ pointerLength (pointerLen5 0xF0#8 0x1F#8) = 4 ∧ isPtrLead 0xF3#8 = true
      ∧ pointerLength (pointerLen5 0xF3#8 0xFF#8) = 35 := by decide

/-- A Token group, an escape group, and an element that is neither. -/
theorem witness_DecodeEncodeRoundTrip :
    (Instr.escNamed ['E', 'N', 'D']).wellFormed = true ∧ isTokenOf tablesFixture.ri0 (bracketGroup ['E', 'N', 'D']) = true
      ∧ (Instr.escHex ['0', 'x', '4', '1']).wellFormed = true
      ∧ isTokenOf tablesFixture.ri0 (bracketGroup ['0', 'x', '4', '1']) = false
      ∧ (Instr.code1 0xFF#8).wellFormed = true := by decide +kernel

/-- One element of each stream. -/
theorem witness_DecodedElementIsHeadOfStream :
    (∃ i, decode (fun _ => false) (.compressed [0xF0#8, 0x00#8, 0x05#8, 0x0A#8]) = .ok i)
      ∧ (∃ i, decode (fun _ => false) (.code [0xD0#8, 0x05#8, 0x0A#8]) = .ok i)
      ∧ ∃ i, decode (fun _ => false) (.text ['A', 'B']) = .ok i :=
  ⟨⟨.ptr 0#5 5#13, by decide⟩, ⟨.code2D0 0#3 (some 0x05#8), by decide⟩, ⟨.char 'A', by decide⟩⟩

/-- A pointer's lead with exactly two bytes after it, one with one byte after it, and a byte just past the range. -/
theorem witness_CompressedStreamClassification :
    (∃ s : State, s.phase = .expand ∧ s.w[s.expander.i]? = some 0xF3#8 ∧ s.expander.i + 2 < s.w.length)
      ∧ (∃ s : State, s.phase = .expand ∧ s.w[s.expander.i]? = some 0xF0#8 ∧ ¬ s.expander.i + 2 < s.w.length)
      ∧ ∃ s : State, s.phase = .expand ∧ s.w[s.expander.i]? = some 0xF4#8 ∧ s.expander.i + 2 < s.w.length :=
  ⟨⟨expandState [] [0xF3#8, 0x00#8, 0x00#8] 0 0, by decide⟩, ⟨expandState [] [0x0A#8, 0xF0#8, 0x00#8] 0 1, by decide⟩,
    ⟨expandState [] [0xF4#8, 0x00#8, 0x00#8] 0 0, by decide⟩⟩

/-- A CODE2 lead at each end of its ranges, a CODE3 lead with two bytes after it, one without, and a plain byte. -/
theorem witness_CodeStreamClassification :
    (∃ s : State, s.phase = .decodeNext ∧ s.b[s.decoder.pos]? = some 0xDA#8)
      ∧ (∃ s : State, s.phase = .decodeWord ∧ s.b[s.decoder.pos]? = some 0xE3#8)
      ∧ (∃ s : State, s.phase = .decodeWord ∧ s.b[s.decoder.pos]? = some 0xF0#8 ∧ s.decoder.pos + 2 < s.b.length)
      ∧ (∃ s : State, s.phase = .decodeWord ∧ s.b[s.decoder.pos]? = some 0xF0#8 ∧ ¬ s.decoder.pos + 2 < s.b.length)
      ∧ ∃ s : State, s.phase = .decodeWord ∧ s.b[s.decoder.pos]? = some 0xDB#8 :=
  ⟨⟨nextState [0xDA#8] 0, by decide⟩, ⟨streamState (.code [0xE3#8, 0x00#8]), by decide⟩,
    ⟨streamState (.code [0xF0#8, 0x00#8, 0x00#8]), by decide⟩, ⟨streamState (.code [0xF0#8, 0x00#8]), by decide⟩,
    ⟨streamState (.code [0xDB#8]), by decide⟩⟩

/-- A Token group, a group that is no Token, an unclosed group, CR LF, and a CR last in the text. -/
theorem witness_TextClassification :
    (∃ s : State, s.phase = .encode ∧ s.src[s.encoder.k]? = some lbrace
        ∧ s.src.drop (s.encoder.k + 1) = ['E', 'N', 'D'] ++ rbrace :: []
        ∧ reverseLookup (s.tables.ri s.encoder.v) (bracketGroup ['E', 'N', 'D']) ≠ none)
      ∧ (∃ s : State, s.phase = .encode ∧ s.src[s.encoder.k]? = some lbrace
        ∧ s.src.drop (s.encoder.k + 1) = [] ++ rbrace :: []
        ∧ reverseLookup (s.tables.ri s.encoder.v) (bracketGroup []) = none)
      ∧ (∃ s : State, s.phase = .encode ∧ s.src[s.encoder.k]? = some lbrace ∧ rbrace ∉ s.src.drop (s.encoder.k + 1))
      ∧ (∃ s : State, s.phase = .encode ∧ s.src[s.encoder.k]? = some charCR ∧ s.src[s.encoder.k + 1]? = some charLF)
      ∧ ∃ s : State, s.phase = .encode ∧ s.src[s.encoder.k]? = some charCR ∧ s.src[s.encoder.k + 1]? ≠ some charLF :=
  ⟨⟨encodeState (bracketGroup ['E', 'N', 'D']) 0 [] none, by decide +kernel⟩,
    ⟨encodeState (bracketGroup []) 0 [] none, by decide +kernel⟩,
    ⟨encodeState [rbrace, lbrace] 1 [] none, by decide +kernel⟩, ⟨encodeState [charCR, charLF] 0 [] none, by decide⟩,
    ⟨encodeState ['A', charCR] 1 [] none, by decide⟩⟩

/-- A mapped index. -/
theorem witness_PtrFieldsAndRange : ∃ s : State, jumpLookup s.tables.jtInv 5#13 = some 5 := ⟨idleState, by decide⟩

/-- Vectors X17 (start = 0, the lowest address) and X19 (end = N - 1). -/
theorem witness_PtrExpandsFromFullBuffer :
    (∃ s : State, jumpLookup s.tables.jtInv 2#13 = some 2
        ∧ ((0 : Nat) : Int) = (s.expander.ws : Int) + (s.expander.i : Int) - ((2 : Nat) : Int)
        ∧ 0 + pointerLength 0#5 ≤ s.fb.size)
      ∧ ∃ s : State, jumpLookup s.tables.jtInv 0#13 = some 0
        ∧ ((5 : Nat) : Int) = (s.expander.ws : Int) + (s.expander.i : Int) - ((0 : Nat) : Int)
        ∧ 5 + pointerLength 0#5 = s.fb.size :=
  ⟨⟨expandState [1#8, 2#8, 3#8, 4#8, 5#8, 6#8, 7#8, 8#8, 9#8] [0xF0#8, 0x00#8, 0x02#8] 2 0, by decide⟩,
    ⟨expandState [1#8, 2#8, 3#8, 4#8, 5#8, 6#8, 7#8, 8#8, 9#8] [0xF0#8, 0x00#8, 0x00#8] 5 0, by decide⟩⟩

/-- Vectors X18 (start = -1) and X20 (end = N). -/
theorem witness_PtrPassesThrough :
    (∃ s : State, jumpLookup s.tables.jtInv 3#13 = some 3
        ∧ (s.expander.ws : Int) + (s.expander.i : Int) - ((3 : Nat) : Int) < 0)
      ∧ ∃ s : State, jumpLookup s.tables.jtInv 0#13 = some 0
        ∧ (s.fb.size : Int) ≤ (s.expander.ws : Int) + (s.expander.i : Int) - ((0 : Nat) : Int)
          + (pointerLength 0#5 : Int) - 1 :=
  ⟨⟨expandState [1#8, 2#8, 3#8, 4#8, 5#8, 6#8, 7#8, 8#8, 9#8] [0xF0#8, 0x00#8, 0x03#8] 2 0, by decide⟩,
    ⟨expandState [1#8, 2#8, 3#8, 4#8, 5#8, 6#8, 7#8, 8#8, 9#8] [0xF0#8, 0x00#8, 0x00#8] 6 0, by decide⟩⟩

/-- Vector X14: index 254 is unmapped. -/
theorem witness_PtrUnmappedRaises : ∃ s : State, jumpLookup s.tables.jtInv 254#13 = none := ⟨idleState, by decide⟩

/-- Vectors X11 and X12: a lead with one byte after it, and a lead that is the last byte. -/
theorem witness_ShortPointerLeadIsLiteral :
    (∃ s : State, s.phase = .expand ∧ s.w[s.expander.i]? = some 0xF1#8 ∧ s.w.length = s.expander.i + 2)
      ∧ ∃ s : State, s.phase = .expand ∧ s.w[s.expander.i]? = some 0xF1#8 ∧ s.w.length = s.expander.i + 1 :=
  ⟨⟨expandState [] [0x0A#8, 0xF1#8, 0x00#8] 0 1, by decide⟩, ⟨expandState [] [0x0A#8, 0xF1#8] 0 1, by decide⟩⟩

/-- A mapped pointer and a literal that run. -/
theorem witness_CompressedElementsFrame :
    (∃ s t : State, jumpLookup s.tables.jtInv 5#13 = some 5 ∧ exec (.ptr 0#5 5#13) s = .next t)
      ∧ ∃ s t : State, exec (.lit 0x0A#8) s = .next t :=
  ⟨⟨idleState, _, by decide, rfl⟩, ⟨idleState, _, rfl⟩⟩

/-- A row with its second byte, and one without. -/
theorem witness_Code2LooksUpOrTruncates :
    (isCode2 (.code2E2 1#1 (some 0xFF#8)) = true ∧ encode (.code2E2 1#1 (some 0xFF#8)) = .code (0xE3#8 :: [0xFF#8]))
      ∧ isCode2 (.code2D0 0#3 none) = true ∧ encode (.code2D0 0#3 none) = .code (0xD0#8 :: []) := by decide

/-- DECODE_NEXT at an element of width 3. -/
theorem witness_DecodeNextDeliversToken :
    ∃ (s : State) (i : Instr) (code : Code), s.phase = .decodeNext ∧ elementCode i = some code :=
  ⟨nextState [0xF2#8, 0x01#8, 0x02#8] 0, .code3 2#2 0x01#8 0x02#8, 0xF20102#24, by decide⟩

/-- DECODE_WORD at an element of width 1. -/
theorem witness_DecodeWordEmitsToken :
    ∃ (s : State) (i : Instr) (code : Code), s.phase = .decodeWord ∧ elementCode i = some code :=
  ⟨streamState (.code [0x0A#8]), .code1 0x0A#8, 0x0A#24, by decide⟩

/-- An element of width 2 that runs, in each of the two commands. -/
theorem witness_CodeElementsFrame :
    ∃ (s s' t t' : State) (i : Instr) (code : Code), elementCode i = some code
      ∧ s.phase = .decodeWord ∧ exec i s = .next t ∧ s'.phase = .decodeNext ∧ exec i s' = .next t' :=
  ⟨streamState (.code [0xD0#8, 0x05#8]), nextState [0xD0#8, 0x05#8] 0, _, _, .code2D0 0#3 (some 0x05#8), 0xD005#24,
    by decide, rfl, rfl, rfl, rfl⟩

/-- A known Code, and unknown ones at the ends of their widths. -/
theorem witness_LookupFallsBackToHexEscape :
    (charMapLookup mapFixture 0x0A#24 = some ['A'] ∧ (0x0A#24).toNat < 256 ^ 1)
      ∧ (charMapLookup mapFixture 0xFF#24 = none ∧ (0xFF#24).toNat < 256 ^ 1)
      ∧ charMapLookup mapFixture 0xF3FFFF#24 = none ∧ (0xF3FFFF#24).toNat < 256 ^ 3 := by decide

/-- The fixture's `{END}`. -/
theorem witness_EscNamedEmitsTokenCode :
    ∃ s : State, reverseLookup (s.tables.ri s.encoder.v) (bracketGroup ['E', 'N', 'D']) = some 0x5F#24
      ∧ rbrace ∉ ['E', 'N', 'D'] := ⟨idleState, by decide +kernel⟩

/-- One digit and six digits; no digits, seven digits, and no `0x`. -/
theorem witness_EscHexEmitsValueOrFails :
    (∃ digits : Text, ['0', 'x', '4'] = '0' :: 'x' :: digits ∧ digits.length = 1 ∧ ∀ c ∈ digits, c ∈ hexDigitChars)
      ∧ (∃ digits : Text, ['0', 'x', 'f', 'F', '0', '9', 'a', 'A'] = '0' :: 'x' :: digits ∧ digits.length = 6
          ∧ ∀ c ∈ digits, c ∈ hexDigitChars)
      ∧ (∀ digits : Text, ['0', 'x'] = '0' :: 'x' :: digits → 1 ≤ digits.length → digits.length ≤ 6 →
          ¬ ∀ c ∈ digits, c ∈ hexDigitChars)
      ∧ ∀ digits : Text, ['4', '1'] = '0' :: 'x' :: digits → 1 ≤ digits.length → digits.length ≤ 6 →
          ¬ ∀ c ∈ digits, c ∈ hexDigitChars :=
  ⟨⟨['4'], by simp [hexDigitChars]⟩, ⟨['f', 'F', '0', '9', 'a', 'A'], by simp [hexDigitChars]⟩, by simp, by simp⟩

/-- CR LF defined, and undefined in an empty table. -/
theorem witness_CrlfEmitsTokenCode :
    (∃ s : State, reverseLookup (s.tables.ri s.encoder.v) [charCR, charLF] = some 0x5E#24)
      ∧ ∃ s : State, reverseLookup (s.tables.ri s.encoder.v) [charCR, charLF] = none :=
  ⟨⟨idleState, by decide +kernel⟩, ⟨{ idleState with tables := { tablesFixture with ri0 := [] } }, by decide⟩⟩

/-- A letter with a Code, and one without. -/
theorem witness_CharEmitsTokenCode :
    ∃ s : State, reverseLookup (s.tables.ri s.encoder.v) ['A'] = some 0x0A#24
      ∧ reverseLookup (s.tables.ri s.encoder.v) ['Z'] = none := ⟨idleState, by decide +kernel⟩

/-- The least and the greatest Code of each width. -/
theorem witness_UnknownCodeReencodes :
    (0x00#24).toNat < 0x100 ∧ (0xFF#24).toNat < 0x100 ∧ 0x100 ≤ (0x100#24).toNat ∧ (0xFFFF#24).toNat < 0x10000
      ∧ 0x10000 ≤ (0x10000#24).toNat ∧ 0x10000 ≤ (0xFFFFFF#24).toNat := by decide

/-- An element that emits and one that raises. -/
theorem witness_TextElementsFrame :
    (∃ t, exec (.char 'A') idleState = .next t ∧ t.out = [0x0A#8])
      ∧ ∃ t, exec (.escHex []) idleState = .next t ∧ t.response = some (.err .encodingError 0) :=
  ⟨⟨_, rfl, by decide +kernel⟩, ⟨_, rfl, by decide +kernel⟩⟩

/-- Each engine at an element. -/
theorem witness_StepRunsDecodedElement :
    (∃ s : State, s.phase = .expand ∧ decodeCompressed (s.w.drop s.expander.i) = .ok (.lit 0x0A#8))
      ∧ (∃ s : State, s.phase = .decodeNext ∧ decodeCode (s.b.drop s.decoder.pos) = .ok (.code1 0x0A#8))
      ∧ (∃ s : State, s.phase = .decodeWord ∧ decodeCode (s.b.drop s.decoder.pos) = .ok (.code1 0x0A#8))
      ∧ ∃ s : State, s.phase = .encode
        ∧ decodeText (isTokenOf (s.tables.ri s.encoder.v)) (s.src.drop s.encoder.k) = .ok (.char 'B') :=
  ⟨⟨expandState [] [0x0A#8] 0 0, by decide⟩, ⟨nextState [0x41#8, 0x0A#8] 1, by decide⟩,
    ⟨streamState (.code [0x0A#8]), by decide⟩, ⟨encodeState ['A', 'B'] 1 [] none, by decide +kernel⟩⟩

/-- A request at the idle block, SPLIT with the delimiter left out. -/
theorem witness_IdleBlockAcceptsRequest :
    ∃ s : State, s.phase = .idle ∧ s.request = some (.split [0xFE#8] none) :=
  ⟨idleState.submit (.split [0xFE#8] none), by decide⟩

/-- The reset state waits. -/
theorem witness_IdleBlockWaits : State.reset.phase = .idle ∧ State.reset.request = none := by decide

/-- Each scan at its end; a full and an empty input. -/
theorem witness_ScanEndDeliversResult :
    (∃ s : State, s.phase = .expand ∧ s.w.length = s.expander.i ∧ s.w ≠ [])
      ∧ (∃ s : State, s.phase = .decodeWord ∧ s.b.length ≤ s.decoder.pos)
      ∧ (∃ s : State, s.phase = .encode ∧ s.src.length ≤ s.encoder.k ∧ s.encoder.maxLen = none)
      ∧ (∃ s : State, s.phase = .split ∧ s.b.length ≤ s.splitter.p)
      ∧ ∃ s : State, s.phase = .compress ∧ s.b.length ≤ s.compressor.i ∧ s.compressor.maxLen = none :=
  ⟨⟨expandState [] [0x0A#8] 0 1, by decide⟩, ⟨streamState (.code []), by decide⟩, ⟨encodeState ['A'] 1 [] none, by decide⟩,
    ⟨{ idleState with phase := .split }, by decide⟩, ⟨{ idleState with phase := .compress }, by decide⟩⟩

/-- An output one byte over the limit, and one of exactly the limit, in both commands. -/
theorem witness_CapacityIsCheckedAtTheEnd :
    (∃ s : State, s.phase = .encode ∧ s.src.length ≤ s.encoder.k ∧ s.encoder.maxLen = some 0 ∧ s.out.length = 1)
      ∧ (∃ s : State, s.phase = .encode ∧ s.src.length ≤ s.encoder.k ∧ s.encoder.maxLen = some 1 ∧ s.out.length = 1)
      ∧ (∃ s : State, s.phase = .compress ∧ s.b.length ≤ s.compressor.i ∧ s.compressor.maxLen = some 0
        ∧ s.out.length = 1)
      ∧ ∃ s : State, s.phase = .compress ∧ s.b.length ≤ s.compressor.i ∧ s.compressor.maxLen = some 1
        ∧ s.out.length = 1 :=
  ⟨⟨encodeState ['A'] 1 [0x0A#8] (some 0), by decide⟩, ⟨encodeState ['A'] 1 [0x0A#8] (some 1), by decide⟩,
    ⟨{ idleState with phase := .compress, out := [0x0A#8], compressor := { maxLen := some 0, i := 0 } }, by decide⟩,
    ⟨{ idleState with phase := .compress, out := [0x0A#8], compressor := { maxLen := some 1, i := 0 } }, by decide⟩⟩

/-- pos = |B|, and the empty input. -/
theorem witness_DecodeNextPastEndIsBadOperand :
    (∃ s : State, s.phase = .decodeNext ∧ s.b.length = s.decoder.pos ∧ s.b ≠ [])
      ∧ ∃ s : State, s.phase = .decodeNext ∧ s.b = [] ∧ s.b.length ≤ s.decoder.pos :=
  ⟨⟨nextState [0x0A#8] 1, by decide⟩, ⟨nextState [] 0, by decide⟩⟩

/-- Vectors E29, E30, E39, and CR LF with an empty reverse index. -/
theorem witness_EncodingErrorCauses :
    (∃ s : State, s.phase = .encode ∧ s.src[s.encoder.k]? = some 'Z'
        ∧ reverseLookup (s.tables.ri s.encoder.v) ['Z'] = none)
      ∧ (∃ s : State, s.phase = .encode ∧ s.src.drop s.encoder.k = lbrace :: (['F', 'o', 'o'] ++ rbrace :: [])
        ∧ reverseLookup (s.tables.ri s.encoder.v) (bracketGroup ['F', 'o', 'o']) = none
        ∧ isHexEscape ['F', 'o', 'o'] = false)
      ∧ (∃ s : State, s.phase = .encode ∧ s.src[s.encoder.k]? = some lbrace ∧ rbrace ∉ s.src.drop (s.encoder.k + 1))
      ∧ ∃ s : State, s.phase = .encode ∧ s.src[s.encoder.k]? = some charCR ∧ s.src[s.encoder.k + 1]? = some charLF
        ∧ reverseLookup (s.tables.ri s.encoder.v) [charCR, charLF] = none :=
  ⟨⟨encodeState ['Z'] 0 [] none, by decide +kernel⟩, ⟨encodeState (bracketGroup ['F', 'o', 'o']) 0 [] none, by decide +kernel⟩,
    ⟨encodeState ['A', lbrace] 1 [] none, by decide⟩,
    ⟨{ encodeState [charCR, charLF] 0 [] none with tables := { tablesFixture with ri0 := [] } }, by decide⟩⟩

/-- Two orders of one map. -/
theorem witness_ReverseIndexIsLeastCode :
    [(0x8A#24, ['A']), (0x0A#24, ['A'])].Perm [(0x0A#24, ['A']), (0x8A#24, ['A'])] := List.Perm.swap _ _ _

/-- A step of a running command. -/
theorem witness_TablesAreNeverWritten : ∃ s t : State, s.phase = .split ∧ step s = .next t :=
  ⟨{ idleState with phase := .split, b := [0xFE#8] }, _, rfl, rfl⟩

/-- A slice that ends at the buffer's end. -/
theorem witness_MemReadIsSlice : 1 + 2 = [0x00#8, 0x0A#8, 0x00#8].length := by decide

/-- The invariant of a running command, with a step. -/
theorem witness_StepKeepsInvariant :
    ∃ s t : State, s.phase = .expand ∧ Inv s ∧ step s = .next t :=
  ⟨expandState [0x0A#8] [0x0A#8] 0 0, _, rfl,
    ⟨by decide, by decide +kernel, Nat.zero_le 1, by simp [expandState, idleState, State.reset], by decide⟩, rfl⟩

/-- The invariant of the idle state. -/
theorem witness_SubmitKeepsInvariant : ∃ s : State, Inv s ∧ s.phase = .idle :=
  ⟨idleState, ⟨by decide, by decide +kernel, trivial, by simp [idleState, State.reset], fun h => absurd rfl h⟩, rfl⟩

/-- A log of one position already scanned, at a step of the scan. -/
theorem witness_PassThroughLogIsIncreasing :
    ∃ s t : State, s.phase = .expand ∧ s.expander.ptLog = [0] ∧ s.expander.ptLog.Pairwise (· < ·)
      ∧ (∀ x ∈ s.expander.ptLog, x < s.expander.i) ∧ s.response = none ∧ step s = .next t :=
  ⟨{ expandState [] [0xF0#8, 0x00#8, 0x05#8] 0 3 with
      expander := { (expandState [] [] 0 3).expander with ptLog := [0] } }, _,
    rfl, rfl, by decide, by decide, rfl, rfl⟩

/-- An idle state for a command. -/
theorem witness_CommandsAlwaysEnd : idleState.phase = .idle := rfl

/-- Two idle states that differ in all but their tables. -/
theorem witness_CommandsAreIndependent :
    ∃ s s' : State, s.phase = .idle ∧ s'.phase = .idle ∧ s.tables = s'.tables ∧ s.out ≠ s'.out :=
  ⟨idleState, { idleState with out := [0x0A#8], txt := ['A'], status := .badOperand }, rfl, rfl, rfl, by decide⟩

/-- A command that ends: DECODE_NEXT of no bytes. -/
theorem witness_CommandsEndAsListed :
    idleState.phase = .idle ∧ Completes (.decodeNext [] 0 .zero) idleState (.err .badOperand 0) :=
  ⟨rfl, 2, by decide +kernel⟩

/-- A window of one literal. -/
theorem witness_ExpandOutputLength :
    idleState.phase = .idle ∧ Completes (.expand [] [0x0A#8] 0) idleState (.ok (.expanded [0x0A#8] [])) :=
  ⟨rfl, 3, by decide +kernel⟩

/-- Bytes at both sides of the lead range. -/
theorem witness_PlainWindowIsUnchanged :
    idleState.phase = .idle ∧ ∀ x ∈ [0xEF#8, 0xF4#8], x.toNat < 0xF0 ∨ 0xF3 < x.toNat := ⟨rfl, by decide⟩

/-- An element of width 1. -/
theorem witness_DecodeNextAdvances :
    idleState.phase = .idle ∧ Completes (.decodeNext [0x0A#8] 0 .zero) idleState (.ok (.decodedNext ['A'] 1)) :=
  ⟨rfl, 2, by decide +kernel⟩

/-- The idle state again, for SPLIT. -/
theorem witness_SplitCountsAndJoins : idleState.phase = .idle := rfl

/-- The fixture meets WF1 to WF5, and a Word of one canonical Code decodes. -/
theorem witness_CanonicalWordsRoundTrip :
    idleState.phase = .idle ∧ tablesWf idleState.tables = true ∧ roundTripWf (idleState.tables.cm .zero) = true
      ∧ canonicalWord (idleState.tables.cm .zero) (idleState.tables.ri .zero) [0x0A#8] = true
      ∧ Completes (.decodeWord [0x0A#8] .zero) idleState (.ok (.decodedWord ['A'])) :=
  ⟨rfl, by decide +kernel, by decide +kernel, by decide +kernel, 3, by decide +kernel⟩

/-- The same with a Code that is not canonical. -/
theorem witness_DecodedTextRoundTrips :
    idleState.phase = .idle ∧ tablesWf idleState.tables = true ∧ roundTripWf (idleState.tables.cm .zero) = true
      ∧ Completes (.decodeWord [0x8A#8] .zero) idleState (.ok (.decodedWord ['A'])) :=
  ⟨rfl, by decide +kernel, by decide +kernel, 3, by decide +kernel⟩

/-- Bytes left to compress. -/
theorem witness_CandidateEndsAtBoundary : [0x01#8, 0xFE#8] ≠ [] := by decide

/-- A match, and no match. -/
theorem witness_BestMatchIsLongestThenNearest :
    bestMatch 8 [0x01#8, 0x02#8, 0x03#8, 0x04#8] [0x01#8, 0x02#8, 0x03#8, 0x04#8] = some (4, 4)
      ∧ bestMatch 8 [0x01#8, 0x02#8, 0x03#8] [0x01#8, 0x02#8, 0x03#8] = none := by decide +kernel

/-- The fixture's JumpTable, and an input without lead bytes. -/
theorem witness_CompressedInputExpandsBack :
    idleState.phase = .idle ∧ tablesWf idleState.tables = true
      ∧ ∀ x ∈ [0xEF#8, 0xF4#8, 0xFE#8], x.toNat < 0xF0 ∨ 0xF3 < x.toNat := ⟨rfl, by decide +kernel, by decide⟩

/-- COMPRESS at index i of B, with an output so far. -/
def compressState (b : Bytes) (i : Nat) (out : Bytes) : State :=
  { idleState with phase := .compress, b := b, out := out, compressor := { maxLen := none, i := i } }

/-- A delimiter, a byte with no match, and a match at the least length. -/
theorem witness_CompressTurnEmitsPointerOrByte :
    (∃ s : State, s.phase = .compress ∧ s.b[s.compressor.i]? = some 0xFE#8)
      ∧ (∃ s : State, s.phase = .compress ∧ s.b[s.compressor.i]? = some 0xF0#8
        ∧ bestMatch (jumpCapacity s.tables.jt) s.out (candidate (s.b.drop s.compressor.i)) = none)
      ∧ ∃ s : State, s.phase = .compress ∧ s.b[s.compressor.i]? = some 0x01#8
        ∧ bestMatch (jumpCapacity s.tables.jt) s.out (candidate (s.b.drop s.compressor.i)) = some (4, 5) :=
  ⟨⟨compressState [0xFE#8] 0 [], by decide⟩, ⟨compressState [0xF0#8] 0 [], by decide +kernel⟩,
    ⟨compressState [1#8, 2#8, 3#8, 4#8, 9#8, 1#8, 2#8, 3#8, 4#8] 5 [1#8, 2#8, 3#8, 4#8, 9#8], by decide +kernel⟩⟩

/-- Vector K2: the first repeat of `01 02 03 04` becomes F0 00 05. -/
theorem test_step_compress_pointer :
    (advance (compressState [1#8, 2#8, 3#8, 4#8, 9#8, 1#8, 2#8, 3#8, 4#8] 5 [1#8, 2#8, 3#8, 4#8, 9#8])).out
      = [1#8, 2#8, 3#8, 4#8, 9#8, 0xF0#8, 0x00#8, 0x05#8] := by decide +kernel

/-- R23 (c): a family Token has something for NN, and no brace inside. -/
theorem test_hasFamily_refuses :
    hasFamily [(0x14#24, bracketGroup ['D', 'e', 'l', 'a', 'y', ' '])] ['D', 'e', 'l', 'a', 'y', ' '] = false
      ∧ hasFamily [(0x14#24, bracketGroup ['D', 'e', 'l', 'a', 'y', ' ', rbrace, '0'])] ['D', 'e', 'l', 'a', 'y', ' ']
        = false
      ∧ hasFamily [(0x14#24, bracketGroup ['D', 'e', 'l', 'a', 'y', ' ', '0', '5'])] ['D', 'e', 'l', 'a', 'y', ' ']
        = true := by decide +kernel

end Sys2Proof.Tests
end

section
/-! PROOFS. The notions the proofs are stated in: a Word decodes to a text, a text encodes to bytes, a command has
ended. The inductive relations stand first on purpose: at an inductive declaration the elaborator waits for the checks
of all before it, so that the proofs below are not in flight together with the tests above (a thread's stack for each). -/

namespace Sys2Proof.Machine

/-- The Word decodes to the text: it is a sequence of elements, none truncated, and the text their Tokens in order. -/
inductive Decodes (m : CharMap) : Bytes → Text → Prop
  | nil : Decodes m [] []
  | cons {bytes : Bytes} {i : Instr} {c : Code} {txt : Text} (hd : decodeCode bytes = .ok i)
      (hc : elementCode i = some c) (h : Decodes m (bytes.drop i.width) txt) :
      Decodes m bytes (lookupToken m c i.width ++ txt)

/-- The value a text element emits: the Code of its Token in the reverse index, or a hex escape's (R122 to R125). -/
def elementValue (ri : ReverseIndex) : Instr → Option Code
  | .escNamed body => reverseLookup ri (bracketGroup body)
  | .escHex body => (hexEscapeDigits body).map fun digits => BitVec.ofNat 24 (parseHex digits)
  | .crlf => reverseLookup ri crlfText
  | .char c => reverseLookup ri [c]
  | _ => none

/-- The text encodes to the bytes: it is a sequence of elements, each with a value, and the bytes those of the values in
order. -/
inductive Encodes (ri : ReverseIndex) : Text → Bytes → Prop
  | nil : Encodes ri [] []
  | cons {chars : Text} {i : Instr} {c : Code} {bytes : Bytes} (hd : decodeText (isTokenOf ri) chars = .ok i)
      (hc : elementValue ri i = some c) (h : Encodes ri (chars.drop i.width) bytes) :
      Encodes ri chars (codeBytes c ++ bytes)

/-- The command has ended: the block is idle, and STATUS and INFO are those of the response (R212, R223). -/
def Ended (t : State) : Prop :=
  ∃ r, t.phase = .idle ∧ t.response = some r ∧ t.status = r.status ∧ t.info = r.info

end Sys2Proof.Machine
end

section
/-! PROOFS. What the next step is, by the running engine's phase; O30. -/

namespace Sys2Proof.Machine

/-! ### The element or the command step an engine fetches -/

section Fetch

variable {s : State} {i : Instr} {r : Reject}

theorem fetch_expand_element (hp : s.phase = .expand) (hd : decodeCompressed (s.w.drop s.expander.i) = .ok i) :
    fetch s = .element i := by simp [fetch, hp, fetchExpand, hd]

theorem fetch_expand_end (hp : s.phase = .expand) (hd : decodeCompressed (s.w.drop s.expander.i) = .error r) :
    fetch s = .command (finishExpand s) := by simp [fetch, hp, fetchExpand, hd]

theorem fetch_decodeNext_element (hp : s.phase = .decodeNext) (hd : decodeCode (s.b.drop s.decoder.pos) = .ok i) :
    fetch s = .element i := by simp [fetch, hp, fetchDecodeNext, hd]

theorem fetch_decodeNext_end (hp : s.phase = .decodeNext) (hd : decodeCode (s.b.drop s.decoder.pos) = .error r) :
    fetch s = .command (s.raise .badOperand s.decoder.pos) := by simp [fetch, hp, fetchDecodeNext, hd]

theorem fetch_decodeWord_element (hp : s.phase = .decodeWord) (hd : decodeCode (s.b.drop s.decoder.pos) = .ok i) :
    fetch s = .element i := by simp [fetch, hp, fetchDecodeWord, hd]

theorem fetch_decodeWord_end (hp : s.phase = .decodeWord) (hd : decodeCode (s.b.drop s.decoder.pos) = .error r) :
    fetch s = .command (finishDecodeWord s) := by simp [fetch, hp, fetchDecodeWord, hd]

theorem fetch_encode_element (hp : s.phase = .encode)
    (hd : decodeText (isTokenOf (s.tables.ri s.encoder.v)) (s.src.drop s.encoder.k) = .ok i) :
    fetch s = .element i := by simp [fetch, hp, fetchEncode, hd]

theorem fetch_encode_end (hp : s.phase = .encode)
    (hd : decodeText (isTokenOf (s.tables.ri s.encoder.v)) (s.src.drop s.encoder.k) = .error .endOfStream) :
    fetch s = .command (finishEncode s) := by simp [fetch, hp, fetchEncode, hd]

theorem fetch_encode_unclosed (hp : s.phase = .encode)
    (hd : decodeText (isTokenOf (s.tables.ri s.encoder.v)) (s.src.drop s.encoder.k) = .error .unclosedGroup) :
    fetch s = .command (s.raise .encodingError s.encoder.k) := by simp [fetch, hp, fetchEncode, hd]

theorem fetch_split (hp : s.phase = .split) : fetch s = .command (splitStep s) := by simp [fetch, hp]

theorem fetch_compress (hp : s.phase = .compress) : fetch s = .command (compressStep s) := by simp [fetch, hp]

theorem fetch_idle (hp : s.phase = .idle) : fetch s = .command (idleStep s) := by simp [fetch, hp]

theorem step_of_element (h : fetch s = .element i) : step s = exec i s := by simp [step, h]

end Fetch

/-- Settles O30: in each of the four scanning phases the engine fetches the element its decoder reads. -/
theorem stepRunsDecodedElement : Obligations.StepRunsDecodedElement := by
  rintro s i (⟨hp, hd⟩ | ⟨hp | hp, hd⟩ | ⟨hp, hd⟩) <;> apply step_of_element
  · exact fetch_expand_element hp hd
  · exact fetch_decodeNext_element hp hd
  · exact fetch_decodeWord_element hp hd
  · exact fetch_encode_element hp hd

/-! ### How many units an element takes -/

theorem instr_width_pos (i : Instr) : 0 < i.width := by
  cases i <;> simp [Instr.width]

theorem decodeCompressed_width_le {bytes : Bytes} {i : Instr} (h : decodeCompressed bytes = .ok i) :
    i.width ≤ bytes.length := by
  obtain ⟨b0, b1, b2, rest, rfl, -, rfl⟩ | ⟨b0, rest, rfl, -, rfl⟩ := decodeCompressed_cases h <;> simp [Instr.width]

/-- A CODE2 row is as wide as its lead and the second byte it was given. -/
theorem code2Row_width {b0 : Byte} {second : Option Byte} {i : Instr} (h : code2Row b0 second = some i) :
    i.width = 1 + second.toList.length := by
  obtain ⟨a, -, rfl⟩ | ⟨a, -, rfl⟩ | ⟨-, rfl⟩ | ⟨a, -, rfl⟩ := code2Row_cases h <;> rfl

theorem decodeCode_width_le {bytes : Bytes} {i : Instr} (h : decodeCode bytes = .ok i) : i.width ≤ bytes.length := by
  obtain ⟨b0, rest, rfl, hr | ⟨-, -, b1, b2, rest', rfl, rfl⟩ | ⟨-, -, rfl⟩⟩ := decodeCode_cases h
  · rw [code2Row_width hr]
    cases rest <;> simp only [List.head?, Option.toList, List.length_cons, List.length_nil] <;> omega
  · simp [Instr.width]
  · simp [Instr.width]

theorem decodeText_width_le {isToken : Text → Bool} {chars : Text} {i : Instr} (h : decodeText isToken chars = .ok i) :
    i.width ≤ chars.length := by
  obtain ⟨body, rest, rfl, -, rfl⟩ | ⟨rest, rfl, rfl⟩ | ⟨c, rest, rfl, -, -, rfl⟩ := decodeText_cases h
  · split <;> simp [Instr.width, bracketGroup]
  · simp [Instr.width]
  · simp [Instr.width]

/-- An element at the scan index ends within the input. -/
theorem add_width_le_of_drop {α : Type} {xs : List α} {n w : Nat} (hw : w ≤ (xs.drop n).length) (hn : n ≤ xs.length) :
    n + w ≤ xs.length := by
  rw [List.length_drop] at hw
  omega

end Sys2Proof.Machine
end

section
/-! PROOFS. What a stream element does to the state, by family. -/

namespace Sys2Proof.Machine

variable {s : State}

theorem SameInputs.refl (s : State) : SameInputs s s := ⟨rfl, rfl, rfl, rfl, rfl, rfl⟩

theorem SameInputs.respond (s : State) (r : Response) : SameInputs s (s.respond r) := .refl s

theorem SameInputs.raise (s : State) (e : Status) (n : Nat) : SameInputs s (s.raise e n) := .refl s

theorem SameCommand.refl (s : State) : SameCommand s s := ⟨rfl, rfl, rfl, rfl⟩

theorem Ended.respond (s : State) (r : Response) : Ended (s.respond r) := ⟨r, rfl, rfl, rfl, rfl⟩

theorem Ended.raise (s : State) (e : Status) (n : Nat) : Ended (s.raise e n) := .respond _ _

/-! ### The compressed stream -/

theorem ptrEffect_of_mapped {jv : JumpIndex} {jump : Nat} (hj : jumpLookup s.tables.jtInv jv = some jump)
    (len5 : BitVec 5) : ptrEffect len5 jv s = ptrOutcome (ptrRange jump (ptrFields len5 jv s)) := by
  simp [ptrEffect, hj]

/-- Both outcomes of a mapped pointer append to OUT and move the scan three bytes on. -/
theorem ptrOutcome_emits (s : State) :
    ∃ bs e, ptrOutcome s = (s.emit bs).setExpander e ∧ e.i = s.expander.i + 3 ∧ e.ws = s.expander.ws := by
  unfold ptrOutcome
  split
  · exact ⟨_, _, rfl, rfl, rfl⟩
  · exact ⟨_, _, rfl, rfl, rfl⟩

/-- A mapped pointer appends to OUT and moves the scan three bytes on; WS stays. -/
theorem ptrEffect_mapped {jv : JumpIndex} {jump : Nat} (hj : jumpLookup s.tables.jtInv jv = some jump)
    (len5 : BitVec 5) :
    ∃ bs e, ptrEffect len5 jv s = (s.emit bs).setExpander e ∧ e.i = s.expander.i + 3 ∧ e.ws = s.expander.ws := by
  obtain ⟨bs, e, h, hi, hws⟩ := ptrOutcome_emits (ptrRange jump (ptrFields len5 jv s))
  exact ⟨bs, e, (ptrEffect_of_mapped hj len5).trans h, hi, hws⟩

theorem ptrEffect_unmapped {jv : JumpIndex} (hj : jumpLookup s.tables.jtInv jv = none) (len5 : BitVec 5) :
    ptrEffect len5 jv s = (ptrFields len5 jv s).raise .unmappedJump s.expander.i := by
  simp [ptrEffect, hj]

theorem litEffect_eq (b0 : Byte) (s : State) :
    litEffect b0 s = (s.emit [b0]).setExpander { s.expander with i := s.expander.i + 1, b0 := b0 } := rfl

/-- An element of the compressed stream goes on, its width further, or ends the command. -/
theorem effect_of_decodeCompressed {bytes : Bytes} {i : Instr} (h : decodeCompressed bytes = .ok i) (s : State) :
    SameInputs s (effect i s)
      ∧ ((SameCommand s (effect i s) ∧ (effect i s).expander.i = s.expander.i + i.width) ∨ Ended (effect i s)) := by
  obtain ⟨b0, b1, b2, rest, -, -, rfl⟩ | ⟨b0, rest, -, -, rfl⟩ := decodeCompressed_cases h
  · simp only [effect]
    cases hj : jumpLookup s.tables.jtInv (pointerJv b1 b2) with
    | none => rw [ptrEffect_unmapped hj]; exact ⟨.refl s, .inr (.raise _ _ _)⟩
    | some jump =>
      obtain ⟨bs, e, h, hi, -⟩ := ptrEffect_mapped hj (pointerLen5 b0 b1)
      rw [h]
      exact ⟨.refl s, .inl ⟨.refl s, hi⟩⟩
  · simp only [effect, litEffect_eq]
    exact ⟨.refl s, .inl ⟨.refl s, by simp [Instr.width]⟩⟩

/-! ### The Code stream -/

/-- An element that is not truncated assembles its Code and delivers the Token, at its width. -/
theorem effect_of_elementCode {i : Instr} {code : Code} (h : elementCode i = some code) :
    ∃ b0, ∀ s, effect i s = codeEffect b0 code i.width s := by
  cases i with
  | code2D0 _ second | code2D8 _ second | code2DA second | code2E2 _ second =>
    cases second with
    | none => cases h
    | some b1 => exact Option.some.inj h ▸ ⟨_, fun _ => rfl⟩
  | code3 _ _ _ | code1 _ => exact Option.some.inj h ▸ ⟨_, fun _ => rfl⟩
  | _ => cases h

/-- An element the Code stream's decoder reads has a Code, or is a CODE2 lead without its second byte. -/
theorem decodeCode_elementCode {bytes : Bytes} {i : Instr} (h : decodeCode bytes = .ok i) :
    (∃ code, elementCode i = some code)
      ∨ elementCode i = none ∧ ∃ lead, ∀ s, effect i s = code2Effect lead none s := by
  obtain ⟨b0, rest, rfl, hr | ⟨-, -, b1, b2, rest', -, rfl⟩ | ⟨-, -, rfl⟩⟩ := decodeCode_cases h
  · cases rest with
    | nil =>
      obtain ⟨a, -, rfl⟩ | ⟨a, -, rfl⟩ | ⟨-, rfl⟩ | ⟨a, -, rfl⟩ := code2Row_cases hr <;>
        exact .inr ⟨rfl, _, fun _ => rfl⟩
    | cons b1 rest =>
      obtain ⟨a, -, rfl⟩ | ⟨a, -, rfl⟩ | ⟨-, rfl⟩ | ⟨a, -, rfl⟩ := code2Row_cases hr <;> exact .inl ⟨_, rfl⟩
  · exact .inl ⟨_, rfl⟩
  · exact .inl ⟨_, rfl⟩

theorem codeEffect_sameInputs (b0 : Byte) (code : Code) (w : Nat) (s : State) :
    SameInputs s (codeEffect b0 code w s) := by
  obtain ⟨-, h⟩ | ⟨-, h⟩ := deliverToken_cases (codeRegisters b0 code w s) <;> rw [codeEffect, h] <;> exact .refl s

theorem code2Effect_sameInputs (lead : Byte) (second : Option Byte) (s : State) :
    SameInputs s (code2Effect lead second s) := by
  cases second with
  | none => exact .refl s
  | some b1 => exact codeEffect_sameInputs _ _ _ _

/-- In DECODE_NEXT an element's Token is the result. -/
theorem codeEffect_decodeNext (hp : s.phase = .decodeNext) (b0 : Byte) (code : Code) (w : Nat) :
    codeEffect b0 code w s = (codeRegisters b0 code w s).respond
      (.ok (.decodedNext (lookupToken (s.tables.cm s.decoder.v) code w) (s.decoder.pos + w))) := by
  simp [codeEffect, deliverToken, codeRegisters, hp]

/-- Outside DECODE_NEXT an element's Token is appended to TXT. -/
theorem codeEffect_emits (hp : s.phase ≠ .decodeNext) (b0 : Byte) (code : Code) (w : Nat) :
    codeEffect b0 code w s
      = (codeRegisters b0 code w s).emitText (lookupToken (s.tables.cm s.decoder.v) code w) := by
  obtain ⟨h, -⟩ | ⟨-, h⟩ := deliverToken_cases (codeRegisters b0 code w s)
  · exact absurd h hp
  · rw [codeEffect, h]; rfl

/-- An element of the Code stream goes on, its width further, or ends the command. -/
theorem effect_of_decodeCode {bytes : Bytes} {i : Instr} (h : decodeCode bytes = .ok i) (s : State) :
    SameInputs s (effect i s)
      ∧ ((SameCommand s (effect i s) ∧ (effect i s).decoder.pos = s.decoder.pos + i.width) ∨ Ended (effect i s)) := by
  obtain ⟨code, hc⟩ | ⟨-, lead, hl⟩ := decodeCode_elementCode h
  · obtain ⟨b0, he⟩ := effect_of_elementCode hc
    rw [he]
    refine ⟨codeEffect_sameInputs _ _ _ _, ?_⟩
    by_cases hp : s.phase = .decodeNext
    · rw [codeEffect_decodeNext hp]
      exact .inr (.respond _ _)
    · rw [codeEffect_emits hp]
      exact .inl ⟨.refl s, rfl⟩
  · rw [hl]
    exact ⟨code2Effect_sameInputs _ _ _, .inr (.raise _ _ _)⟩

/-! ### Display text -/

/-- The state with the group's closing index in j, for a bracket group (R120). -/
def withCloseIndex : Instr → State → State
  | .escNamed body, s => setCloseIndex body s
  | .escHex body, s => setCloseIndex body s
  | _, s => s

/-- The four rows of display text. -/
def isTextElement : Instr → Bool
  | .escNamed _ => true
  | .escHex _ => true
  | .crlf => true
  | .char _ => true
  | _ => false

theorem decodeText_isTextElement {isToken : Text → Bool} {chars : Text} {i : Instr}
    (h : decodeText isToken chars = .ok i) : isTextElement i = true := by
  obtain ⟨body, rest, -, -, rfl⟩ | ⟨rest, -, rfl⟩ | ⟨c, rest, -, -, -, rfl⟩ := decodeText_cases h
  · split <;> rfl
  · rfl
  · rfl

/-- A text element emits its value, or raises EncodingError(k) where it has none. -/
theorem effect_of_isTextElement {i : Instr} (h : isTextElement i = true) (s : State) :
    (∃ val, elementValue (s.tables.ri s.encoder.v) i = some val
        ∧ effect i s = emitCode val i.width (withCloseIndex i s))
      ∨ (elementValue (s.tables.ri s.encoder.v) i = none
        ∧ effect i s = (withCloseIndex i s).raise .encodingError s.encoder.k) := by
  cases i with
  | escNamed body => exact emitToken_cases (bracketGroup body) (body.length + 2) (setCloseIndex body s)
  | escHex body =>
    cases hd : hexEscapeDigits body <;> simp [effect, elementValue, escHexEffect, hd, Instr.width, withCloseIndex]
  | crlf => exact emitToken_cases crlfText 2 s
  | char c => exact emitToken_cases [c] 1 s
  | _ => cases h

theorem withCloseIndex_sameInputs (i : Instr) (s : State) : SameInputs s (withCloseIndex i s) := by
  cases i <;> exact .refl s

theorem withCloseIndex_sameCommand (i : Instr) (s : State) : SameCommand s (withCloseIndex i s) := by
  cases i <;> exact .refl s

@[simp] theorem withCloseIndex_k (i : Instr) (s : State) : (withCloseIndex i s).encoder.k = s.encoder.k := by
  cases i <;> rfl

@[simp] theorem withCloseIndex_v (i : Instr) (s : State) : (withCloseIndex i s).encoder.v = s.encoder.v := by
  cases i <;> rfl

@[simp] theorem withCloseIndex_maxLen (i : Instr) (s : State) :
    (withCloseIndex i s).encoder.maxLen = s.encoder.maxLen := by
  cases i <;> rfl

@[simp] theorem withCloseIndex_out (i : Instr) (s : State) : (withCloseIndex i s).out = s.out := by
  cases i <;> rfl

/-- An element of display text goes on, its width further, or ends the command. -/
theorem effect_of_decodeText {isToken : Text → Bool} {chars : Text} {i : Instr} (h : decodeText isToken chars = .ok i)
    (s : State) :
    SameInputs s (effect i s)
      ∧ ((SameCommand s (effect i s) ∧ (effect i s).encoder.k = s.encoder.k + i.width) ∨ Ended (effect i s)) := by
  obtain ⟨val, -, he⟩ | ⟨-, he⟩ := effect_of_isTextElement (decodeText_isTextElement h) s <;> rw [he]
  · exact ⟨withCloseIndex_sameInputs i s, .inl ⟨withCloseIndex_sameCommand i s, by simp [emitCode]⟩⟩
  · exact ⟨withCloseIndex_sameInputs i s, .inr (.raise _ _ _)⟩

/-! ### The capacity check -/

theorem checkCapacity_ends (maxLen : Option Nat) (r : Result) (s : State) :
    SameInputs s (checkCapacity maxLen r s) ∧ Ended (checkCapacity maxLen r s) := by
  obtain ⟨m, -, -, h⟩ | ⟨-, h⟩ := checkCapacity_cases maxLen r s <;> rw [h]
  · exact ⟨.raise _ _ _, .raise _ _ _⟩
  · exact ⟨.respond _ _, .respond _ _⟩

end Sys2Proof.Machine
end

section
/-! PROOFS. What an element leaves unchanged (O15, O21), and the reverse index (O40). -/

namespace Sys2Proof.Machine

/-! ### Frames -/

/-- Emitting bytes changes no byte of a byte space but past the end of OUT. -/
theorem SameBytesButAppended.of_emit (s : State) (bs : Bytes) (e : Expander) :
    SameBytesButAppended s ((s.emit bs).setExpander e) := by
  refine ⟨fun a => ⟨rfl, rfl, rfl⟩, fun a ha => ?_⟩
  simp [State.byteAt, List.getElem?_append_left ha]

/-- What a mapped pointer and a literal have in common: bytes are emitted and decompressor registers written. -/
theorem effect_emits_of_ptr_or_lit {s : State} {i : Instr}
    (h : (∃ len5 jv jump, i = .ptr len5 jv ∧ jumpLookup s.tables.jtInv jv = some jump) ∨ ∃ b0, i = .lit b0) :
    ∃ bs e, effect i s = (s.emit bs).setExpander e ∧ e.ws = s.expander.ws
      ∧ ∀ b0, i = .lit b0 → e = { s.expander with i := s.expander.i + 1, b0 := b0 } := by
  obtain ⟨len5, jv, jump, rfl, hj⟩ | ⟨b0, rfl⟩ := h
  · obtain ⟨bs, e, h, -, hws⟩ := ptrEffect_mapped hj len5
    exact ⟨bs, e, h, hws, by simp⟩
  · exact ⟨_, _, litEffect_eq b0 s, rfl, by rintro _ ⟨⟩; rfl⟩

/-- Settles O15: both elements are an Emit and a write of decompressor registers. -/
theorem compressedElementsFrame : Obligations.CompressedElementsFrame := by
  intro s t i hi ht
  obtain ⟨bs, e, h, hws, hlit⟩ := effect_emits_of_ptr_or_lit hi
  rw [exec_eq_effect, h] at ht
  cases ht
  exact ⟨.refl s, .refl s, .of_emit s bs e, rfl, rfl, rfl, rfl, rfl, hws, hlit⟩

/-- Settles O21: the element's registers are the decoder's, and its Token ends DECODE_NEXT or is appended to TXT. -/
theorem codeElementsFrame : Obligations.CodeElementsFrame := by
  intro s t i code hc ht
  obtain ⟨b0, h⟩ := effect_of_elementCode hc
  rw [exec_eq_effect, h] at ht
  cases ht
  refine ⟨codeEffect_sameInputs _ _ _ _, ?_⟩
  by_cases hp : s.phase = .decodeNext
  · rw [codeEffect_decodeNext hp]
    exact ⟨fun a sp => by cases sp <;> rfl, fun _ _ => rfl, rfl, rfl, rfl, rfl, rfl, fun hn => absurd hp hn⟩
  · rw [codeEffect_emits hp]
    refine ⟨fun a sp => by cases sp <;> rfl, fun a ha => ?_, rfl, rfl, rfl, rfl, rfl, fun _ => .refl s⟩
    simp [State.charAt, codeRegisters, List.getElem?_append_left ha]

/-! ### The reverse index (R26) -/

/-- c is the least Code of t among the entries of m (R26). -/
def IsLeastCode (m : CharMap) (t : Token) (c : Code) : Prop := (c, t) ∈ m ∧ ∀ c', (c', t) ∈ m → c.toNat ≤ c'.toNat

theorem IsLeastCode.unique {m : CharMap} {t : Token} {c c' : Code} (h : IsLeastCode m t c) (h' : IsLeastCode m t c') :
    c = c' :=
  BitVec.eq_of_toNat_eq (Nat.le_antisymm (h.2 c' h'.1) (h'.2 c h.1))

theorem reverseBuild_append (m : CharMap) (c : Code) (t : Token) :
    reverseBuild (m ++ [(c, t)]) = reverseInsert t c (reverseBuild m) := by
  simp [reverseBuild]

/-- The lookup gives the least Code where the Token has one, and nothing where it has none. -/
theorem reverseLookup_reverseBuild_spec (m : CharMap) (t : Token) :
    (∃ c, reverseLookup (reverseBuild m) t = some c ∧ IsLeastCode m t c)
      ∨ (reverseLookup (reverseBuild m) t = none ∧ ∀ c, (c, t) ∉ m) := by
  induction m using List.reverseRecOn with
  | nil => exact .inr ⟨rfl, by simp⟩
  | append_singleton m e ih =>
    obtain ⟨d, u⟩ := e
    rw [reverseBuild_append, reverseLookup_reverseInsert]
    by_cases hu : t = u
    · subst hu
      left
      obtain ⟨c, hc, hm, hmin⟩ | ⟨hn, hm⟩ := ih
      · rw [hc]
        by_cases hd : d.toNat < c.toNat
        · refine ⟨d, by simp [hd], by simp, fun c' hc' => ?_⟩
          obtain h | h : (c', t) ∈ m ∨ c' = d := by simpa using hc'
          · exact hd.le.trans (hmin c' h)
          · rw [h]
        · refine ⟨c, by simp [hd], by simp [hm], fun c' hc' => ?_⟩
          obtain h | h : (c', t) ∈ m ∨ c' = d := by simpa using hc'
          · exact hmin c' h
          · rw [h]; exact not_lt.mp hd
      · refine ⟨d, by simp [hn], by simp, fun c' hc' => ?_⟩
        obtain h | h : (c', t) ∈ m ∨ c' = d := by simpa using hc'
        · exact absurd h (hm c')
        · rw [h]
    · have hmem : ∀ c, (c, t) ∈ m ++ [(d, u)] ↔ (c, t) ∈ m := by simp [hu]
      simpa [IsLeastCode, hmem, hu] using ih

theorem reverseLookup_reverseBuild {m : CharMap} {t : Token} {c : Code} :
    reverseLookup (reverseBuild m) t = some c ↔ IsLeastCode m t c := by
  obtain ⟨d, hd, hl⟩ | ⟨hn, hm⟩ := reverseLookup_reverseBuild_spec m t
  · rw [hd, Option.some.injEq]
    exact ⟨fun h => h ▸ hl, hl.unique⟩
  · rw [hn]
    exact ⟨nofun, fun h => absurd h.1 (hm c)⟩

/-- A Token of the map has a Code in the reverse index. -/
theorem reverseLookup_isSome_of_mem {m : CharMap} {t : Token} {c : Code} (h : (c, t) ∈ m) :
    ∃ d, reverseLookup (reverseBuild m) t = some d := by
  obtain ⟨d, hd, -⟩ | ⟨-, hm⟩ := reverseLookup_reverseBuild_spec m t
  · exact ⟨d, hd⟩
  · exact absurd h (hm c)

/-- Settles O40: being the least Code of a Token does not depend on the order of the entries. -/
theorem reverseIndexIsLeastCode : Obligations.ReverseIndexIsLeastCode := by
  refine ⟨fun m t c => reverseLookup_reverseBuild, fun m m' hp t => Option.ext fun c => ?_⟩
  rw [reverseLookup_reverseBuild, reverseLookup_reverseBuild]
  simp [IsLeastCode, hp.mem_iff]

end Sys2Proof.Machine
end

section
/-! PROOFS. The state invariant is kept by every step (O43). -/

namespace Sys2Proof.Machine

variable {s t : State}

/-! ### The compressor's turn -/

theorem bestMatchFrom_length_le {cap : Nat} {out cand : Bytes} {n l d : Nat}
    (h : bestMatchFrom cap out cand n = some (l, d)) : l ≤ n := by
  induction n with
  | zero => cases h
  | succ n ih =>
    simp only [bestMatchFrom] at h
    split at h
    · cases h; exact le_rfl
    · exact (ih h).trans n.le_succ

theorem bestMatch_length_le {cap : Nat} {out cand : Bytes} {l d : Nat} (h : bestMatch cap out cand = some (l, d)) :
    l ≤ cand.length :=
  (bestMatchFrom_length_le h).trans (min_le_right _ _)

theorem candidate_length_le (left : Bytes) : (candidate left).length ≤ left.length := by
  cases left with
  | nil => exact le_rfl
  | cons x xs =>
    have h := ((xs.take 34).takeWhile_prefix (· != delimiter)).length_le
    simp only [candidate, List.length_cons, List.length_take] at h ⊢
    omega

/-- What a turn can do: the byte as it is, or a pointer no longer than what is left (R192). -/
theorem compressElement_cases (x : Byte) (left : Bytes) (s : State) :
    compressElement x left s = compressLiteral x s
      ∨ ∃ l j, l ≤ left.length ∧ compressElement x left s = compressPointer l j s := by
  unfold compressElement
  split
  · exact .inl rfl
  · split
    · exact .inl rfl
    · next l d hm =>
      split
      · next j _ => exact .inr ⟨l, j, (bestMatch_length_le hm).trans (candidate_length_le left), rfl⟩
      · exact .inl rfl

/-! ### The invariant -/

/-- A step that keeps the inputs and the command, and leaves the scan index in bounds, keeps the invariant. -/
theorem Inv.of_turn (h : Inv s) (hi : SameInputs s t) (hc : SameCommand s t) (hs : scanInBounds t) : Inv t := by
  obtain ⟨htab, hfb, -, -, -, hreq⟩ := hi
  obtain ⟨hp, hr, hst, hin⟩ := hc
  refine ⟨hfb ▸ h.buffer, htab ▸ h.tables, hs, ?_, ?_⟩
  · rw [hr, hst, hin]
    exact h.status
  · rw [hp, hreq, hr]
    exact h.running

/-- A step that keeps the inputs and ends the command keeps the invariant. -/
theorem Inv.of_ended (h : Inv s) (hi : SameInputs s t) (he : Ended t) : Inv t := by
  obtain ⟨htab, hfb, -⟩ := hi
  obtain ⟨r, hp, hr, hst, hin⟩ := he
  refine ⟨hfb ▸ h.buffer, htab ▸ h.tables, by simp [scanInBounds, hp], fun r' hr' => ?_, fun hn => absurd hp hn⟩
  obtain rfl : r = r' := Option.some.inj (hr.symm.trans hr')
  exact ⟨hst, hin⟩

/-- A turn of a scan: the command goes on, with its index in bounds, or ends. -/
theorem Inv.of_outcome {p : Prop} (h : Inv s) (ho : SameInputs s t ∧ ((SameCommand s t ∧ p) ∨ Ended t))
    (hs : SameInputs s t → SameCommand s t → p → scanInBounds t) : Inv t := by
  obtain ⟨hi, ⟨hc, hp⟩ | he⟩ := ho
  · exact h.of_turn hi hc (hs hi hc hp)
  · exact h.of_ended hi he

/-- Accepting a request starts its scan at an index in bounds, with an empty response slot. -/
theorem Inv.accept (h : Inv s) (c : Command) : Inv (accept c s) := by
  cases c with
  | expand fb w ws => exact ⟨memOfBytes_wf fb, h.tables, Nat.zero_le _, nofun, fun _ => ⟨rfl, rfl⟩⟩
  | decodeNext b pos v => exact ⟨h.buffer, h.tables, trivial, nofun, fun _ => ⟨rfl, rfl⟩⟩
  | decodeWord b v => exact ⟨h.buffer, h.tables, Nat.zero_le _, nofun, fun _ => ⟨rfl, rfl⟩⟩
  | encode src v maxLen => exact ⟨h.buffer, h.tables, Nat.zero_le _, nofun, fun _ => ⟨rfl, rfl⟩⟩
  | split b delim => exact ⟨h.buffer, h.tables, Nat.zero_le _, nofun, fun _ => ⟨rfl, rfl⟩⟩
  | compress b maxLen => exact ⟨h.buffer, h.tables, Nat.zero_le _, nofun, fun _ => ⟨rfl, rfl⟩⟩

theorem Inv.idleStep (h : Inv s) : Inv (idleStep s) := by
  unfold Machine.idleStep
  split
  · exact h.accept _
  · exact h

theorem Inv.stepTo_expand (h : Inv s) (hp : s.phase = .expand) : Inv (stepTo s) := by
  cases hd : decodeCompressed (s.w.drop s.expander.i) with
  | error r =>
    rw [stepTo_of_command (fetch_expand_end hp hd)]
    exact h.of_ended (.respond _ _) (.respond _ _)
  | ok i =>
    rw [stepTo_of_element (fetch_expand_element hp hd)]
    refine h.of_outcome (effect_of_decodeCompressed hd s) fun ⟨_, _, hw, _⟩ ⟨hp', _⟩ hi => ?_
    have hs : s.expander.i ≤ s.w.length := by simpa [scanInBounds, hp] using h.scan
    simpa [scanInBounds, hp', hp, hi, hw] using add_width_le_of_drop (decodeCompressed_width_le hd) hs

theorem Inv.stepTo_decodeNext (h : Inv s) (hp : s.phase = .decodeNext) : Inv (stepTo s) := by
  cases hd : decodeCode (s.b.drop s.decoder.pos) with
  | error r =>
    rw [stepTo_of_command (fetch_decodeNext_end hp hd)]
    exact h.of_ended (.raise _ _ _) (.raise _ _ _)
  | ok i =>
    rw [stepTo_of_element (fetch_decodeNext_element hp hd)]
    exact h.of_outcome (effect_of_decodeCode hd s) fun _ ⟨hp', _⟩ _ => by simp [scanInBounds, hp', hp]

theorem Inv.stepTo_decodeWord (h : Inv s) (hp : s.phase = .decodeWord) : Inv (stepTo s) := by
  cases hd : decodeCode (s.b.drop s.decoder.pos) with
  | error r =>
    rw [stepTo_of_command (fetch_decodeWord_end hp hd)]
    exact h.of_ended (.respond _ _) (.respond _ _)
  | ok i =>
    rw [stepTo_of_element (fetch_decodeWord_element hp hd)]
    refine h.of_outcome (effect_of_decodeCode hd s) fun ⟨_, _, _, hb, _⟩ ⟨hp', _⟩ hi => ?_
    have hs : s.decoder.pos ≤ s.b.length := by simpa [scanInBounds, hp] using h.scan
    simpa [scanInBounds, hp', hp, hi, hb] using add_width_le_of_drop (decodeCode_width_le hd) hs

theorem Inv.stepTo_encode (h : Inv s) (hp : s.phase = .encode) : Inv (stepTo s) := by
  cases hd : decodeText (isTokenOf (s.tables.ri s.encoder.v)) (s.src.drop s.encoder.k) with
  | error r =>
    cases r with
    | endOfStream =>
      rw [stepTo_of_command (fetch_encode_end hp hd)]
      obtain ⟨hi, he⟩ := checkCapacity_ends s.encoder.maxLen (.encoded s.out) s
      exact h.of_ended hi he
    | unclosedGroup =>
      rw [stepTo_of_command (fetch_encode_unclosed hp hd)]
      exact h.of_ended (.raise _ _ _) (.raise _ _ _)
  | ok i =>
    rw [stepTo_of_element (fetch_encode_element hp hd)]
    refine h.of_outcome (effect_of_decodeText hd s) fun ⟨_, _, _, _, hsrc, _⟩ ⟨hp', _⟩ hi => ?_
    have hs : s.encoder.k ≤ s.src.length := by simpa [scanInBounds, hp] using h.scan
    simpa [scanInBounds, hp', hp, hi, hsrc] using add_width_le_of_drop (decodeText_width_le hd) hs

theorem Inv.stepTo_split (h : Inv s) (hp : s.phase = .split) : Inv (stepTo s) := by
  rw [stepTo_of_command (fetch_split hp), splitStep]
  split
  · next x hx =>
    obtain ⟨hlt, -⟩ := List.getElem?_eq_some_iff.mp hx
    refine h.of_turn (.refl s) (.refl s) ?_
    simpa [scanInBounds, splitByte, hp] using hlt
  · exact h.of_ended (.respond _ _) (.respond _ _)

theorem Inv.stepTo_compress (h : Inv s) (hp : s.phase = .compress) : Inv (stepTo s) := by
  rw [stepTo_of_command (fetch_compress hp), compressStep]
  split
  · next x hx =>
    obtain ⟨hlt, -⟩ := List.getElem?_eq_some_iff.mp hx
    obtain he | ⟨l, j, hl, he⟩ := compressElement_cases x (s.b.drop s.compressor.i) s <;> rw [he] <;>
      refine h.of_turn (.refl s) (.refl s) ?_
    · simpa [scanInBounds, compressLiteral, hp] using hlt
    · simpa [scanInBounds, compressPointer, hp] using add_width_le_of_drop hl hlt.le
  · obtain ⟨hi, he⟩ := checkCapacity_ends s.compressor.maxLen (.compressed s.out) s
    exact h.of_ended hi he

theorem Inv.stepTo (h : Inv s) : Inv (stepTo s) := by
  cases hp : s.phase with
  | idle => rw [stepTo_of_command (fetch_idle hp)]; exact h.idleStep
  | expand => exact h.stepTo_expand hp
  | decodeNext => exact h.stepTo_decodeNext hp
  | decodeWord => exact h.stepTo_decodeWord hp
  | encode => exact h.stepTo_encode hp
  | split => exact h.stepTo_split hp
  | compress => exact h.stepTo_compress hp

/-- Settles O43: by the running engine's phase, a step accepts a request, goes on within the input, or ends the
command. -/
theorem stepKeepsInvariant : Obligations.StepKeepsInvariant := by
  intro s t h ht
  rw [step_eq_stepTo] at ht
  cases ht
  exact h.stepTo

end Sys2Proof.Machine
end

section
/-! PROOFS. A command depends on its operands and the tables alone (O48). -/

namespace Sys2Proof.Machine

variable {s s' : State}

/-- The part of the state that what is still to come depends on, by the running command; all else as after reset. Two
states with the same essence behave alike from there on. -/
def State.essence (s : State) : State :=
  match s.phase with
  | .idle => { State.reset with
      tables := s.tables, phase := .idle, request := s.request, response := s.response,
      status := s.status, info := s.info }
  | .expand => { State.reset with
      tables := s.tables, phase := .expand, request := s.request, response := s.response,
      fb := s.fb, w := s.w, out := s.out,
      expander := { State.reset.expander with ws := s.expander.ws, i := s.expander.i, ptLog := s.expander.ptLog } }
  | .decodeNext => { State.reset with
      tables := s.tables, phase := .decodeNext, request := s.request, response := s.response,
      b := s.b, decoder := { State.reset.decoder with v := s.decoder.v, pos := s.decoder.pos } }
  | .decodeWord => { State.reset with
      tables := s.tables, phase := .decodeWord, request := s.request, response := s.response,
      b := s.b, txt := s.txt, decoder := { State.reset.decoder with v := s.decoder.v, pos := s.decoder.pos } }
  | .encode => { State.reset with
      tables := s.tables, phase := .encode, request := s.request, response := s.response,
      src := s.src, out := s.out,
      encoder := { State.reset.encoder with v := s.encoder.v, maxLen := s.encoder.maxLen, k := s.encoder.k } }
  | .split => { State.reset with
      tables := s.tables, phase := .split, request := s.request, response := s.response,
      b := s.b, splitter := s.splitter }
  | .compress => { State.reset with
      tables := s.tables, phase := .compress, request := s.request, response := s.response,
      b := s.b, out := s.out, compressor := s.compressor }

/-! ### What the essence keeps -/

@[simp] theorem State.essence_phase (s : State) : s.essence.phase = s.phase := by
  cases hp : s.phase <;> simp [State.essence, hp]

@[simp] theorem State.essence_tables (s : State) : s.essence.tables = s.tables := by
  cases hp : s.phase <;> simp [State.essence, hp]

@[simp] theorem State.essence_request (s : State) : s.essence.request = s.request := by
  cases hp : s.phase <;> simp [State.essence, hp]

@[simp] theorem State.essence_response (s : State) : s.essence.response = s.response := by
  cases hp : s.phase <;> simp [State.essence, hp]

theorem State.essence_idle_status (hp : s.phase = .idle) : s.essence.status = s.status ∧ s.essence.info = s.info := by
  simp [State.essence, hp]

/-! ### Elements: the essence of the next state comes from the essence -/

theorem essence_ptrOutcome (jump : Nat) (len5 : BitVec 5) (jv : JumpIndex) (hp : s.phase = .expand) :
    (ptrOutcome (ptrRange jump (ptrFields len5 jv s))).essence
      = (ptrOutcome (ptrRange jump (ptrFields len5 jv s.essence))).essence := by
  simp only [ptrOutcome, apply_ite State.essence]
  simp [ptrRange, ptrFields, ptrPassThrough, ptrCopy, State.essence, hp]

theorem essence_effect_compressed {bytes : Bytes} {i : Instr} (hd : decodeCompressed bytes = .ok i)
    (hp : s.phase = .expand) : (effect i s).essence = (effect i s.essence).essence := by
  obtain ⟨b0, b1, b2, rest, -, -, rfl⟩ | ⟨b0, rest, -, -, rfl⟩ := decodeCompressed_cases hd
  · simp only [effect]
    cases hj : jumpLookup s.tables.jtInv (pointerJv b1 b2) with
    | none =>
      rw [ptrEffect_unmapped hj, ptrEffect_unmapped (by simpa using hj)]
      cases s
      cases hp
      rfl
    | some jump =>
      rw [ptrEffect_of_mapped hj, ptrEffect_of_mapped (by simpa using hj)]
      exact essence_ptrOutcome jump _ _ hp
  · cases s
    cases hp
    rfl

theorem essence_codeEffect (hp : s.phase = .decodeNext ∨ s.phase = .decodeWord) (b0 : Byte) (code : Code) (w : Nat) :
    (codeEffect b0 code w s).essence = (codeEffect b0 code w s.essence).essence := by
  cases s
  obtain ⟨⟨⟩⟩ | ⟨⟨⟩⟩ := hp <;> rfl

theorem essence_effect_code {bytes : Bytes} {i : Instr} (hd : decodeCode bytes = .ok i)
    (hp : s.phase = .decodeNext ∨ s.phase = .decodeWord) : (effect i s).essence = (effect i s.essence).essence := by
  obtain ⟨code, hc⟩ | ⟨-, lead, hl⟩ := decodeCode_elementCode hd
  · obtain ⟨b0, he⟩ := effect_of_elementCode hc
    rw [he, he]
    exact essence_codeEffect hp _ _ _
  · rw [hl, hl]
    cases s
    obtain ⟨⟨⟩⟩ | ⟨⟨⟩⟩ := hp <;> rfl

theorem essence_emitCode (hp : s.phase = .encode) (i : Instr) (val : Code) (width : Nat) :
    (emitCode val width (withCloseIndex i s)).essence = (emitCode val width (withCloseIndex i s.essence)).essence := by
  cases s
  cases hp
  cases i <;> rfl

theorem essence_raise_text (hp : s.phase = .encode) (i : Instr) (e : Status) (n : Nat) :
    ((withCloseIndex i s).raise e n).essence = ((withCloseIndex i s.essence).raise e n).essence := by
  cases s
  cases hp
  cases i <;> rfl

theorem essence_effect_text {isToken : Text → Bool} {chars : Text} {i : Instr} (hd : decodeText isToken chars = .ok i)
    (hp : s.phase = .encode) : (effect i s).essence = (effect i s.essence).essence := by
  have hv : s.essence.encoder.v = s.encoder.v := by simp [State.essence, hp]
  have hk : s.essence.encoder.k = s.encoder.k := by simp [State.essence, hp]
  have hi := decodeText_isTextElement hd
  have h' := effect_of_isTextElement hi s.essence
  rw [State.essence_tables, hv, hk] at h'
  obtain ⟨val, hval, he⟩ | ⟨hn, he⟩ := effect_of_isTextElement hi s
  · obtain ⟨val', hval', he'⟩ | ⟨hn, -⟩ := h'
    · obtain rfl : val = val' := Option.some.inj (hval.symm.trans hval')
      rw [he, he', essence_emitCode hp]
    · simp [hn] at hval
  · obtain ⟨val', hval', -⟩ | ⟨-, he'⟩ := h'
    · simp [hn] at hval'
    · rw [he, he', essence_raise_text hp]

/-! ### Command steps -/

theorem essence_checkCapacity (hp : s.phase = .encode ∨ s.phase = .compress) (maxLen : Option Nat) (r : Result) :
    (checkCapacity maxLen r s).essence = (checkCapacity maxLen r s.essence).essence := by
  have ho : s.essence.out = s.out := by obtain hp | hp := hp <;> simp [State.essence, hp]
  cases maxLen with
  | none => cases s; obtain ⟨⟨⟩⟩ | ⟨⟨⟩⟩ := hp <;> rfl
  | some m =>
    rw [checkCapacity, checkCapacity, apply_ite State.essence, apply_ite State.essence, ho]
    cases s
    obtain ⟨⟨⟩⟩ | ⟨⟨⟩⟩ := hp <;> rfl

/-! ### Steps -/

theorem essence_stepTo_expand (hp : s.phase = .expand) : (stepTo s).essence = (stepTo s.essence).essence := by
  have hp' : s.essence.phase = .expand := by simp [hp]
  have hw : s.essence.w.drop s.essence.expander.i = s.w.drop s.expander.i := by simp [State.essence, hp]
  cases hd : decodeCompressed (s.w.drop s.expander.i) with
  | error r =>
    rw [stepTo_of_command (fetch_expand_end hp hd), stepTo_of_command (fetch_expand_end hp' (hw ▸ hd))]
    cases s
    cases hp
    rfl
  | ok i =>
    rw [stepTo_of_element (fetch_expand_element hp hd), stepTo_of_element (fetch_expand_element hp' (hw ▸ hd))]
    exact essence_effect_compressed hd hp

theorem essence_stepTo_decodeNext (hp : s.phase = .decodeNext) : (stepTo s).essence = (stepTo s.essence).essence := by
  have hp' : s.essence.phase = .decodeNext := by simp [hp]
  have hb : s.essence.b.drop s.essence.decoder.pos = s.b.drop s.decoder.pos := by simp [State.essence, hp]
  cases hd : decodeCode (s.b.drop s.decoder.pos) with
  | error r =>
    rw [stepTo_of_command (fetch_decodeNext_end hp hd), stepTo_of_command (fetch_decodeNext_end hp' (hb ▸ hd))]
    cases s
    cases hp
    rfl
  | ok i =>
    rw [stepTo_of_element (fetch_decodeNext_element hp hd), stepTo_of_element (fetch_decodeNext_element hp' (hb ▸ hd))]
    exact essence_effect_code hd (.inl hp)

theorem essence_stepTo_decodeWord (hp : s.phase = .decodeWord) : (stepTo s).essence = (stepTo s.essence).essence := by
  have hp' : s.essence.phase = .decodeWord := by simp [hp]
  have hb : s.essence.b.drop s.essence.decoder.pos = s.b.drop s.decoder.pos := by simp [State.essence, hp]
  cases hd : decodeCode (s.b.drop s.decoder.pos) with
  | error r =>
    rw [stepTo_of_command (fetch_decodeWord_end hp hd), stepTo_of_command (fetch_decodeWord_end hp' (hb ▸ hd))]
    cases s
    cases hp
    rfl
  | ok i =>
    rw [stepTo_of_element (fetch_decodeWord_element hp hd), stepTo_of_element (fetch_decodeWord_element hp' (hb ▸ hd))]
    exact essence_effect_code hd (.inr hp)

theorem essence_stepTo_encode (hp : s.phase = .encode) : (stepTo s).essence = (stepTo s.essence).essence := by
  have hp' : s.essence.phase = .encode := by simp [hp]
  have hsrc : s.essence.src.drop s.essence.encoder.k = s.src.drop s.encoder.k := by simp [State.essence, hp]
  have hri : s.essence.tables.ri s.essence.encoder.v = s.tables.ri s.encoder.v := by simp [State.essence, hp]
  cases hd : decodeText (isTokenOf (s.tables.ri s.encoder.v)) (s.src.drop s.encoder.k) with
  | error r =>
    cases r with
    | endOfStream =>
      rw [stepTo_of_command (fetch_encode_end hp hd), stepTo_of_command (fetch_encode_end hp' (by rwa [hri, hsrc])),
        finishEncode, essence_checkCapacity (.inl hp)]
      cases s
      cases hp
      rfl
    | unclosedGroup =>
      rw [stepTo_of_command (fetch_encode_unclosed hp hd),
        stepTo_of_command (fetch_encode_unclosed hp' (by rwa [hri, hsrc]))]
      cases s
      cases hp
      rfl
  | ok i =>
    rw [stepTo_of_element (fetch_encode_element hp hd),
      stepTo_of_element (fetch_encode_element hp' (by rwa [hri, hsrc]))]
    exact essence_effect_text hd hp

theorem essence_stepTo_split (hp : s.phase = .split) : (stepTo s).essence = (stepTo s.essence).essence := by
  have hp' : s.essence.phase = .split := by simp [hp]
  have hb : s.essence.b[s.essence.splitter.p]? = s.b[s.splitter.p]? := by simp [State.essence, hp]
  rw [stepTo_of_command (fetch_split hp), stepTo_of_command (fetch_split hp'), splitStep, splitStep, hb]
  cases s.b[s.splitter.p]? <;>
    · cases s
      cases hp
      rfl

theorem essence_compressLiteral (hp : s.phase = .compress) (x : Byte) :
    (compressLiteral x s).essence = (compressLiteral x s.essence).essence := by
  cases s
  cases hp
  rfl

theorem essence_compressPointer (hp : s.phase = .compress) (l : Nat) (j : JumpIndex) :
    (compressPointer l j s).essence = (compressPointer l j s.essence).essence := by
  cases s
  cases hp
  rfl

theorem essence_compressElement (hp : s.phase = .compress) (x : Byte) (left : Bytes) :
    (compressElement x left s).essence = (compressElement x left s.essence).essence := by
  have ho : s.essence.out = s.out := by simp [State.essence, hp]
  rw [compressElement, compressElement, State.essence_tables, ho]
  by_cases hx : x = delimiter
  · rw [if_pos hx, if_pos hx]
    exact essence_compressLiteral hp x
  · rw [if_neg hx, if_neg hx]
    cases bestMatch (jumpCapacity s.tables.jt) s.out (candidate left) with
    | none => exact essence_compressLiteral hp x
    | some m =>
      obtain ⟨l, d⟩ := m
      dsimp only
      cases jumpIndexOf s.tables.jt d with
      | none => exact essence_compressLiteral hp x
      | some j => exact essence_compressPointer hp l j

theorem essence_stepTo_compress (hp : s.phase = .compress) : (stepTo s).essence = (stepTo s.essence).essence := by
  have hp' : s.essence.phase = .compress := by simp [hp]
  have hb : s.essence.b = s.b := by simp [State.essence, hp]
  have hc : s.essence.compressor = s.compressor := by simp [State.essence, hp]
  rw [stepTo_of_command (fetch_compress hp), stepTo_of_command (fetch_compress hp'), compressStep, compressStep, hb, hc]
  cases s.b[s.compressor.i]? with
  | some x => exact essence_compressElement hp _ _
  | none =>
    refine (essence_checkCapacity (.inr hp) _ _).trans ?_
    cases s
    cases hp
    rfl

theorem essence_stepTo_idle (hp : s.phase = .idle) : (stepTo s).essence = (stepTo s.essence).essence := by
  rw [stepTo_of_command (fetch_idle hp), stepTo_of_command (fetch_idle (s := s.essence) (by simp [hp])), idleStep,
    idleStep, State.essence_request]
  cases s.request with
  | some c => cases s; cases hp; cases c <;> rfl
  | none => cases s; cases hp; rfl

/-- A step from the essence alone leads to the same essence. -/
theorem essence_stepTo (s : State) : (stepTo s).essence = (stepTo s.essence).essence := by
  cases hp : s.phase with
  | idle => exact essence_stepTo_idle hp
  | expand => exact essence_stepTo_expand hp
  | decodeNext => exact essence_stepTo_decodeNext hp
  | decodeWord => exact essence_stepTo_decodeWord hp
  | encode => exact essence_stepTo_encode hp
  | split => exact essence_stepTo_split hp
  | compress => exact essence_stepTo_compress hp

/-! ### Runs -/

theorem essence_runFor (n : Nat) (h : s.essence = s'.essence) : (runFor n s).essence = (runFor n s').essence := by
  induction n generalizing s s' with
  | zero => exact h
  | succ n ih =>
    simp only [runFor, advance_eq_stepTo]
    exact ih (by rw [essence_stepTo s, h, ← essence_stepTo s'])

/-- Accepting a command leaves an essence of its operands and the tables. -/
theorem essence_accept (c : Command) (h : s.tables = s'.tables) : (accept c s).essence = (accept c s').essence := by
  cases c <;> simp [accept, State.essence, h]

theorem stepTo_submit (hp : s.phase = .idle) (c : Command) : stepTo (s.submit c) = accept c (s.submit c) :=
  stepTo_of_command (fetch_idle hp)

/-- Settles O48: after the accepting step the two runs have the same essence, and every step keeps that. -/
theorem commandsAreIndependent : Obligations.CommandsAreIndependent := by
  intro s s' c n hp hp' htab
  have h : (runFor (n + 1) (s.submit c)).essence = (runFor (n + 1) (s'.submit c)).essence := by
    simp only [runFor, advance_eq_stepTo, stepTo_submit hp, stepTo_submit hp']
    exact essence_runFor n (essence_accept c htab)
  have hphase := congrArg State.phase h
  have hresponse := congrArg State.response h
  simp only [State.essence_phase, State.essence_response] at hphase hresponse
  refine ⟨hphase, hresponse, fun hidle => ?_⟩
  obtain ⟨hst, hin⟩ := State.essence_idle_status hidle
  obtain ⟨hst', hin'⟩ := State.essence_idle_status (hphase ▸ hidle)
  exact ⟨by rw [← hst, ← hst', h], by rw [← hin, ← hin', h]⟩

end Sys2Proof.Machine
end

section
/-! PROOFS. The encodings of Codes and of Tokens, each read back by the other side's decoder. -/

namespace Sys2Proof.Machine

/-! ### The bytes of a Code (R55, R126) -/

theorem codeBytes_code1Value (b0 : Byte) : codeBytes (code1Value b0) = [b0] := by
  have h0 : b0.toNat < 256 := b0.isLt
  have hv : (code1Value b0).toNat = b0.toNat := by
    simp only [code1Value, BitVec.toNat_ofNat]
    omega
  have hb : (code1Value b0).extractLsb' 0 8 = b0 :=
    BitVec.eq_of_toNat_eq (by rw [BitVec.extractLsb'_toNat, hv, Nat.shiftRight_eq_div_pow]; omega)
  rw [codeBytes, if_pos (by omega), hb]

theorem code2Value_toNat (b0 b1 : Byte) : (code2Value b0 b1).toNat = b0.toNat * 256 + b1.toNat := by
  have h0 : b0.toNat < 256 := b0.isLt
  have h1 : b1.toNat < 256 := b1.isLt
  simp only [code2Value, BitVec.toNat_ofNat]
  omega

theorem code3Value_toNat (b0 b1 b2 : Byte) :
    (code3Value b0 b1 b2).toNat = b0.toNat * 65536 + b1.toNat * 256 + b2.toNat := by
  have h0 : b0.toNat < 256 := b0.isLt
  have h1 : b1.toNat < 256 := b1.isLt
  have h2 : b2.toNat < 256 := b2.isLt
  simp only [code3Value, BitVec.toNat_ofNat]
  omega

/-- A lead that is not 0 makes the second byte part of the Code's natural width. -/
theorem codeBytes_code2Value {b0 : Byte} (hb : 0 < b0.toNat) (b1 : Byte) : codeBytes (code2Value b0 b1) = [b0, b1] := by
  have h0 : b0.toNat < 256 := b0.isLt
  have h1 : b1.toNat < 256 := b1.isLt
  have hv := code2Value_toNat b0 b1
  have hb0 : (code2Value b0 b1).extractLsb' 8 8 = b0 :=
    BitVec.eq_of_toNat_eq (by rw [BitVec.extractLsb'_toNat, hv, Nat.shiftRight_eq_div_pow]; omega)
  have hb1 : (code2Value b0 b1).extractLsb' 0 8 = b1 :=
    BitVec.eq_of_toNat_eq (by rw [BitVec.extractLsb'_toNat, hv, Nat.shiftRight_eq_div_pow]; omega)
  rw [codeBytes, if_neg (by omega), if_pos (by omega), hb0, hb1]

theorem codeBytes_code3Value {b0 : Byte} (hb : 0 < b0.toNat) (b1 b2 : Byte) :
    codeBytes (code3Value b0 b1 b2) = [b0, b1, b2] := by
  have h0 : b0.toNat < 256 := b0.isLt
  have h1 : b1.toNat < 256 := b1.isLt
  have h2 : b2.toNat < 256 := b2.isLt
  have hv := code3Value_toNat b0 b1 b2
  have hb0 : (code3Value b0 b1 b2).extractLsb' 16 8 = b0 :=
    BitVec.eq_of_toNat_eq (by rw [BitVec.extractLsb'_toNat, hv, Nat.shiftRight_eq_div_pow]; omega)
  have hb1 : (code3Value b0 b1 b2).extractLsb' 8 8 = b1 :=
    BitVec.eq_of_toNat_eq (by rw [BitVec.extractLsb'_toNat, hv, Nat.shiftRight_eq_div_pow]; omega)
  have hb2 : (code3Value b0 b1 b2).extractLsb' 0 8 = b2 :=
    BitVec.eq_of_toNat_eq (by rw [BitVec.extractLsb'_toNat, hv, Nat.shiftRight_eq_div_pow]; omega)
  rw [codeBytes, if_neg (by omega), if_neg (by omega), hb0, hb1, hb2]

theorem code1Value_extract {c : Code} (h : c.toNat < 0x100) : code1Value (c.extractLsb' 0 8) = c :=
  BitVec.eq_of_toNat_eq (by
    simp only [code1Value, BitVec.toNat_ofNat, BitVec.extractLsb'_toNat, Nat.shiftRight_eq_div_pow]
    omega)

theorem code2Value_extract {c : Code} (h : c.toNat < 0x10000) :
    code2Value (c.extractLsb' 8 8) (c.extractLsb' 0 8) = c :=
  BitVec.eq_of_toNat_eq (by
    simp only [code2Value_toNat, BitVec.extractLsb'_toNat, Nat.shiftRight_eq_div_pow]
    omega)

theorem code3Value_extract (c : Code) :
    code3Value (c.extractLsb' 16 8) (c.extractLsb' 8 8) (c.extractLsb' 0 8) = c :=
  BitVec.eq_of_toNat_eq (by
    have h : c.toNat < 16777216 := c.isLt
    simp only [code3Value_toNat, BitVec.extractLsb'_toNat, Nat.shiftRight_eq_div_pow]
    omega)

/-- A smaller Code takes no more bytes. -/
theorem codeBytes_length_mono {c d : Code} (h : c.toNat ≤ d.toNat) : (codeBytes c).length ≤ (codeBytes d).length := by
  unfold codeBytes
  repeat' split
  all_goals simp
  all_goals omega

/-! ### What the Code stream's decoder reads (R100) -/

theorem isCode2Lead_pos {b0 : Byte} (h : isCode2Lead b0 = true) : 0 < b0.toNat := by
  revert b0; decide

theorem isPtrLead_pos {b0 : Byte} (h : isPtrLead b0 = true) : 0 < b0.toNat := by
  revert b0; decide

theorem isCode2Lead_of_isPtrLead {b0 : Byte} (h : isPtrLead b0 = true) : isCode2Lead b0 = false := by
  revert b0; decide

theorem code2Row_eq_none {b0 : Byte} (h : isCode2Lead b0 = false) (second : Option Byte) :
    code2Row b0 second = none := by
  rw [← Option.not_isSome_iff_eq_none, code2Row_isSome, h]
  decide

/-- The Code of a CODE2 row with its second byte. -/
theorem elementCode_of_code2Row {b0 b1 : Byte} {i : Instr} (h : code2Row b0 (some b1) = some i) :
    elementCode i = some (code2Value b0 b1) := by
  obtain ⟨a, rfl, rfl⟩ | ⟨a, rfl, rfl⟩ | ⟨rfl, rfl⟩ | ⟨a, rfl, rfl⟩ := code2Row_cases h <;> rfl

theorem elementCode_of_code2Row_none {b0 : Byte} {i : Instr} (h : code2Row b0 none = some i) :
    elementCode i = none := by
  obtain ⟨a, -, rfl⟩ | ⟨a, -, rfl⟩ | ⟨-, rfl⟩ | ⟨a, -, rfl⟩ := code2Row_cases h <;> rfl

/-- The Code c is read at the head of a stream, as an element that is all of its bytes at natural width. -/
def ReadsCode (bytes : Bytes) (c : Code) (rest : Bytes) : Prop :=
  bytes = codeBytes c ++ rest
    ∧ ∃ i, decodeCode bytes = .ok i ∧ elementCode i = some c ∧ i.width = (codeBytes c).length

theorem readsCode_code2 {b0 : Byte} (h : isCode2Lead b0 = true) (b1 : Byte) (rest : Bytes) :
    ReadsCode (b0 :: b1 :: rest) (code2Value b0 b1) rest := by
  obtain ⟨i, hi⟩ := Option.isSome_iff_exists.mp ((code2Row_isSome b0 (some b1)).trans h)
  have hb := codeBytes_code2Value (isCode2Lead_pos h) b1
  exact ⟨by simp [hb], i, by simp [decodeCode, hi], elementCode_of_code2Row hi, by simp [code2Row_width hi, hb]⟩

theorem readsCode_code3 {b0 : Byte} (h : isPtrLead b0 = true) (b1 b2 : Byte) (rest : Bytes) :
    ReadsCode (b0 :: b1 :: b2 :: rest) (code3Value b0 b1 b2) rest := by
  have hn : code2Row b0 (some b1) = none := code2Row_eq_none (isCode2Lead_of_isPtrLead h) _
  have hb := codeBytes_code3Value (isPtrLead_pos h) b1 b2
  exact ⟨by simp [hb], .code3 (b0.setWidth 2) b1 b2, by simp [decodeCode, hn, decodeCode31, h],
    by simp [elementCode, leadF0_setWidth b0 h], by simp [hb, Instr.width]⟩

/-- Any other lead, and a CODE3 lead with fewer than two bytes after it, is a Code of one byte. -/
theorem readsCode_code1 {b0 : Byte} (h : isCode2Lead b0 = false) {rest : Bytes}
    (hp : isPtrLead b0 = true → rest.length < 2) : ReadsCode (b0 :: rest) (code1Value b0) rest := by
  have hn : code2Row b0 rest.head? = none := code2Row_eq_none h _
  have hd : decodeCode31 b0 rest = .code1 b0 := by
    match rest with
    | [] => rfl
    | [_] => rfl
    | _ :: _ :: _ => rw [decodeCode31, if_neg (fun h' => by simpa using hp h')]
  have hb := codeBytes_code1Value b0
  exact ⟨by simp [hb], .code1 b0, by simp [decodeCode, hn, hd], rfl, by simp [hb, Instr.width]⟩

/-- Every element that is not truncated is its Code at natural width, and is so again before no more bytes than now
follow it. -/
theorem readsCode_of_decodeCode {bytes : Bytes} {i : Instr} {c : Code} (hd : decodeCode bytes = .ok i)
    (hc : elementCode i = some c) :
    ReadsCode bytes c (bytes.drop i.width)
      ∧ ∀ rest : Bytes, rest.length ≤ (bytes.drop i.width).length → ReadsCode (codeBytes c ++ rest) c rest := by
  obtain ⟨b0, rest, rfl, hr | ⟨-, hp, b1, b2, rest', rfl, rfl⟩ | ⟨hl, hp, rfl⟩⟩ := decodeCode_cases hd
  · cases rest with
    | nil => simp [elementCode_of_code2Row_none hr] at hc
    | cons b1 rest =>
      have hl : isCode2Lead b0 = true := by rw [← code2Row_isSome b0 (some b1)]; exact Option.isSome_of_eq_some hr
      obtain rfl : code2Value b0 b1 = c := Option.some.inj ((elementCode_of_code2Row hr).symm.trans hc)
      rw [code2Row_width hr, codeBytes_code2Value (isCode2Lead_pos hl)]
      exact ⟨readsCode_code2 hl b1 rest, fun rest' _ => readsCode_code2 hl b1 rest'⟩
  · obtain rfl : code3Value b0 b1 b2 = c := by simpa [elementCode, leadF0_setWidth b0 hp] using hc
    rw [codeBytes_code3Value (isPtrLead_pos hp)]
    exact ⟨readsCode_code3 hp b1 b2 rest', fun rest _ => readsCode_code3 hp b1 b2 rest⟩
  · obtain rfl : code1Value b0 = c := Option.some.inj hc
    rw [codeBytes_code1Value]
    exact ⟨readsCode_code1 hl hp, fun rest' hle => readsCode_code1 hl fun h => lt_of_le_of_lt hle (hp h)⟩

/-- A well-formed Code is read back at its natural width whatever follows (WF1). -/
theorem readsCode_of_wellFormedCode {c : Code} (h : wellFormedCode c = true) (rest : Bytes) :
    ReadsCode (codeBytes c ++ rest) c rest := by
  unfold wellFormedCode at h
  split at h
  · next h1 =>
    simp only [Bool.and_eq_true, Bool.not_eq_true'] at h
    obtain ⟨hl, hp⟩ := h
    rw [← code1Value_extract h1, codeBytes_code1Value]
    exact readsCode_code1 hl (by simp [hp])
  · split at h
    · next h2 =>
      rw [← code2Value_extract h2, codeBytes_code2Value (isCode2Lead_pos h)]
      exact readsCode_code2 h _ _
    · rw [← code3Value_extract c, codeBytes_code3Value (isPtrLead_pos h)]
      exact readsCode_code3 h _ _ _

end Sys2Proof.Machine
end

section
/-! PROOFS. The texts of Codes, each read back as one element of display text. -/

namespace Sys2Proof.Machine

/-! ### Hex escapes (R12, R83, R123) -/

theorem hexValue?_hexDigit {n : Nat} (h : n < 16) : hexValue? (hexDigit n) = some n := by
  revert n; decide

theorem hexText_length (n v : Nat) : (hexText n v).length = n := by
  induction n generalizing v with
  | zero => rfl
  | succ n ih => simp [hexText, ih]

theorem isHexDigit_of_mem_hexText {n v : Nat} {c : Char} (h : c ∈ hexText n v) : isHexDigit c = true := by
  induction n generalizing v with
  | zero => cases h
  | succ n ih =>
    obtain h | rfl : c ∈ hexText n (v / 16) ∨ c = hexDigit (v % 16) := by simpa [hexText] using h
    · exact ih h
    · simp [isHexDigit, hexValue?_hexDigit (Nat.mod_lt v (by decide))]

theorem parseHex_append_singleton (t : Text) (c : Char) :
    parseHex (t ++ [c]) = parseHex t * 16 + (hexValue? c).getD 0 := by
  simp [parseHex]

/-- n digits hold a value below 16 ^ n. -/
theorem parseHex_hexText (n v : Nat) : parseHex (hexText n v) = v % 16 ^ n := by
  induction n generalizing v with
  | zero => simp [hexText, parseHex, Nat.mod_one]
  | succ n ih =>
    rw [hexText, parseHex_append_singleton, ih, hexValue?_hexDigit (Nat.mod_lt v (by decide)), pow_succ', Nat.mod_mul]
    simp only [Option.getD_some]
    omega

/-- The body of the fallback Token (R104). -/
def fallbackBody (code : Code) (w : Nat) : Text := '0' :: 'x' :: hexText (2 * w) code.toNat

theorem fallbackToken_eq (code : Code) (w : Nat) : fallbackToken code w = bracketGroup (fallbackBody code w) := rfl

theorem rbrace_notMem_fallbackBody (code : Code) (w : Nat) : rbrace ∉ fallbackBody code w := by
  simp only [fallbackBody, List.mem_cons, not_or]
  exact ⟨by decide, by decide, fun h => absurd (isHexDigit_of_mem_hexText h) (by decide)⟩

theorem hexEscapeDigits_fallbackBody (code : Code) {w : Nat} (hw : 1 ≤ w) (hw' : w ≤ 3) :
    hexEscapeDigits (fallbackBody code w) = some (hexText (2 * w) code.toNat) := by
  have hall : (hexText (2 * w) code.toNat).all isHexDigit = true :=
    List.all_eq_true.mpr fun _ => isHexDigit_of_mem_hexText
  rw [fallbackBody, hexEscapeDigits, hexText_length]
  exact if_pos ⟨rfl, rfl, by omega, by omega, hall⟩

/-! ### What the text decoder reads (R121) -/

theorem decodeText_bracketGroup (isToken : Text → Bool) {body : Text} (h : rbrace ∉ body) (rest : Text) :
    decodeText isToken (bracketGroup body ++ rest)
      = .ok (if isToken (bracketGroup body) then .escNamed body else .escHex body) := by
  have hb : groupBody (body ++ rbrace :: rest) = some body := groupBody_eq_some.mpr ⟨h, rest, rfl⟩
  have hg : bracketGroup body ++ rest = lbrace :: (body ++ rbrace :: rest) := by simp [bracketGroup]
  rw [hg, decodeText, if_pos rfl, hb]
  dsimp only
  split <;> rfl

theorem decodeText_crlf (isToken : Text → Bool) (rest : Text) : decodeText isToken (crlfText ++ rest) = .ok .crlf := rfl

theorem decodeText_char (isToken : Text → Bool) {c : Char} (h : c ≠ lbrace) (h' : c ≠ charCR) (rest : Text) :
    decodeText isToken ([c] ++ rest) = .ok (.char c) := by
  simp [decodeText, h, h']

/-- The text t is read at the head of display text, whatever follows, as one element that is all of it and emits the
Code c. -/
def ReadsText (ri : ReverseIndex) (t : Text) (c : Code) : Prop :=
  ∀ rest, ∃ i, decodeText (isTokenOf ri) (t ++ rest) = .ok i ∧ i.width = t.length ∧ elementValue ri i = some c

/-- A Token of the forms WF2 lists, CR apart (WF5), is read as one element and emits its Code. -/
theorem readsText_of_wellFormedToken {ri : ReverseIndex} {t : Token} {c : Code} (h : wellFormedToken t = true)
    (hcr : t ≠ [charCR]) (hl : reverseLookup ri t = some c) : ReadsText ri t c := by
  intro rest
  simp only [wellFormedToken, Bool.or_eq_true, Bool.and_eq_true, beq_iff_eq, bne_iff_ne, ne_eq] at h
  obtain (⟨hlen, hne⟩ | rfl) | hg := h
  · obtain ⟨d, rfl⟩ := List.length_eq_one_iff.mp hlen
    exact ⟨.char d, decodeText_char _ (by simpa using hne) (by simpa using hcr) rest, rfl, hl⟩
  · exact ⟨.crlf, decodeText_crlf _ rest, rfl, hl⟩
  · obtain ⟨body, hb⟩ := Option.isSome_iff_exists.mp hg
    obtain ⟨rfl, hn⟩ := groupOf_eq_some.mp hb
    refine ⟨.escNamed body, ?_, by simp [Instr.width, bracketGroup], hl⟩
    rw [decodeText_bracketGroup _ hn, if_pos (by simp [isTokenOf, hl])]

/-- The fallback Token of a Code of at most w bytes is read as a hex escape and emits the Code, where it is no Token. -/
theorem readsText_fallbackToken {ri : ReverseIndex} {c : Code} {w : Nat} (hw : 1 ≤ w) (hw' : w ≤ 3)
    (hc : c.toNat < 256 ^ w) (hl : reverseLookup ri (fallbackToken c w) = none) :
    ReadsText ri (fallbackToken c w) c := by
  intro rest
  have hv : parseHex (hexText (2 * w) c.toNat) = c.toNat := by
    rw [parseHex_hexText, pow_mul]
    exact Nat.mod_eq_of_lt hc
  refine ⟨.escHex (fallbackBody c w), ?_, by simp [fallbackToken_eq, Instr.width, bracketGroup], ?_⟩
  · rw [fallbackToken_eq] at hl ⊢
    rw [decodeText_bracketGroup _ (rbrace_notMem_fallbackBody c w), if_neg (by simp [isTokenOf, hl])]
  · simp [elementValue, hexEscapeDigits_fallbackBody c hw hw', hv]

/-! ### The CharacterMap under WF1 to WF5 (R22, R24) -/

theorem mem_of_charMapLookup {m : CharMap} {c : Code} {t : Token} (h : charMapLookup m c = some t) : (c, t) ∈ m := by
  obtain ⟨l₁, l₂, rfl, -⟩ := List.lookup_eq_some_iff.mp h
  simp

/-- In a canonical map the keys after the first are greater. -/
theorem codesRising_cons {c : Code} {t : Token} {m : CharMap} (h : codesRising ((c, t) :: m) = true) :
    codesRising m = true ∧ ∀ d u, (d, u) ∈ m → c.toNat < d.toNat := by
  induction m generalizing c t with
  | nil => exact ⟨rfl, by simp⟩
  | cons e m ih =>
    obtain ⟨d, u⟩ := e
    simp only [codesRising, Bool.and_eq_true, decide_eq_true_eq] at h
    obtain ⟨hlt, hr⟩ := h
    refine ⟨hr, fun d' u' hm => ?_⟩
    obtain hm | hm := List.mem_cons.mp hm
    · cases hm; exact hlt
    · exact hlt.trans ((ih hr).2 d' u' hm)

/-- Every entry of a canonical map is the one its Code is looked up to (R22). -/
theorem charMapLookup_of_mem {m : CharMap} (h : codesRising m = true) {c : Code} {t : Token} (hm : (c, t) ∈ m) :
    charMapLookup m c = some t := by
  induction m with
  | nil => cases hm
  | cons e m ih =>
    obtain ⟨d, u⟩ := e
    obtain ⟨hr, hlt⟩ := codesRising_cons h
    obtain hm | hm := List.mem_cons.mp hm
    · cases hm; simp [charMapLookup]
    · have hne : (c == d) = false := by
        have := hlt c t hm
        simp only [beq_eq_false_iff_ne]
        rintro rfl
        omega
      simpa [charMapLookup, List.lookup_cons, hne] using ih hr hm

/-- What WF1 to WF3 and WF5 say of an entry. -/
theorem roundTripWf_entry {m : CharMap} (h : roundTripWf m = true) {c : Code} {t : Token} (hm : (c, t) ∈ m) :
    wellFormedCode c = true ∧ wellFormedToken t = true ∧ notHexToken t = true ∧ t ≠ [charCR] := by
  simp only [roundTripWf, Bool.and_eq_true, Bool.not_eq_true', List.all_eq_true] at h
  obtain ⟨⟨hall, -⟩, hcr⟩ := h
  obtain ⟨⟨hc, ht⟩, hn⟩ := hall (c, t) hm
  refine ⟨hc, ht, hn, ?_⟩
  rintro rfl
  simp only [hasToken, List.any_eq_false] at hcr
  exact hcr (c, [charCR]) hm (by simp)

/-- No fallback Token is a Token (WF3). -/
theorem reverseLookup_fallbackToken {m : CharMap} (h : roundTripWf m = true) (c : Code) {w : Nat} (hw : 1 ≤ w)
    (hw' : w ≤ 3) : reverseLookup (reverseBuild m) (fallbackToken c w) = none := by
  by_contra hne
  obtain ⟨d, hd⟩ := Option.ne_none_iff_exists'.mp hne
  obtain ⟨-, -, hn, -⟩ := roundTripWf_entry h (reverseLookup_reverseBuild.mp hd).1
  have hg : groupOf (fallbackToken c w) = some (fallbackBody c w) :=
    groupOf_eq_some.mpr ⟨rfl, rbrace_notMem_fallbackBody c w⟩
  simp [notHexToken, hg, isHexEscape, hexEscapeDigits_fallbackBody c hw hw'] at hn

end Sys2Proof.Machine
end

section
/-! PROOFS. The runs of DECODE_WORD and of ENCODE as relations between Words and texts. -/

namespace Sys2Proof.Machine

variable {s : State} {r : Response}

/-! ### Runs that deliver a response -/

/-- After some steps the block is idle, no request waits, and r is the response. -/
def Delivers (s : State) (r : Response) : Prop :=
  ∃ n, (runFor n s).phase = .idle ∧ (runFor n s).request = none ∧ (runFor n s).response = some r

theorem Delivers.of_stepTo (h : Delivers (stepTo s) r) : Delivers s r := by
  obtain ⟨n, h⟩ := h
  exact ⟨n + 1, by simpa only [runFor, advance_eq_stepTo] using h⟩

theorem Delivers.respond (h : s.request = none) (r : Response) : Delivers (s.respond r) r := ⟨0, rfl, h, rfl⟩

/-- A command completes when its engine, just started, delivers the response. -/
theorem Completes.of_accept {c : Command} (hp : s.phase = .idle) (h : Delivers (accept c (s.submit c)) r) :
    Completes c s r :=
  Delivers.of_stepTo (s := s.submit c) (by rwa [stepTo_submit hp])

/-- A completed command is a run of the engine just started. -/
theorem Completes.run_accept {c : Command} (hp : s.phase = .idle) (h : Completes c s r) :
    Delivers (accept c (s.submit c)) r := by
  obtain ⟨n, h⟩ := h
  cases n with
  | zero => exact absurd h.2.1 (by simp [runFor])
  | succ n => exact ⟨n, by simpa only [runFor, advance_eq_stepTo, stepTo_submit hp] using h⟩

/-! ### DECODE_WORD (R106) -/

/-- A turn of DECODE_WORD emits the element's Token and moves on. -/
theorem stepTo_decodeWord_element {i : Instr} {c : Code} (hp : s.phase = .decodeWord)
    (hd : decodeCode (s.b.drop s.decoder.pos) = .ok i) (hc : elementCode i = some c) :
    ∃ b0, stepTo s = (codeRegisters b0 c i.width s).emitText (lookupToken (s.tables.cm s.decoder.v) c i.width) := by
  obtain ⟨b0, he⟩ := effect_of_elementCode hc
  exact ⟨b0, by rw [stepTo_of_element (fetch_decodeWord_element hp hd), he, codeEffect_emits (by simp [hp])]⟩

/-- A scan of bytes that decode to a text delivers it, after what TXT holds. -/
theorem Decodes.delivers {m : CharMap} {bytes : Bytes} {txt : Text} (h : Decodes m bytes txt) :
    ∀ s : State, s.phase = .decodeWord → s.request = none → s.tables.cm s.decoder.v = m →
      s.b.drop s.decoder.pos = bytes → Delivers s (.ok (.decodedWord (s.txt ++ txt))) := by
  induction h with
  | nil =>
    intro s hp hr _ hb
    refine .of_stepTo ?_
    rw [stepTo_of_command (fetch_decodeWord_end (r := .endOfStream) hp (by rw [hb]; rfl)), List.append_nil]
    exact .respond hr _
  | cons hd hc _ ih =>
    intro s hp hr hm hb
    subst hm hb
    obtain ⟨b0, hs⟩ := stepTo_decodeWord_element hp hd hc
    refine .of_stepTo ?_
    rw [hs, ← List.append_assoc]
    exact ih _ hp hr rfl (by simp [codeRegisters, List.drop_drop])

/-- A scan that ends with a text has decoded what was left of its input. -/
theorem decodes_of_runFor (n : Nat) {txt : Text} (hp : s.phase = .decodeWord) (hr : s.request = none)
    (hidle : (runFor n s).phase = .idle) (hresp : (runFor n s).response = some (.ok (.decodedWord txt))) :
    ∃ rest, txt = s.txt ++ rest ∧ Decodes (s.tables.cm s.decoder.v) (s.b.drop s.decoder.pos) rest := by
  induction n generalizing s with
  | zero => exact absurd (hp.symm.trans hidle) (by decide)
  | succ n ih =>
    simp only [runFor, advance_eq_stepTo] at hidle hresp
    cases hd : decodeCode (s.b.drop s.decoder.pos) with
    | error e =>
      rw [stepTo_of_command (fetch_decodeWord_end hp hd), runFor_idle (s := finishDecodeWord s) rfl hr] at hresp
      cases hresp
      exact ⟨[], by simp, by rw [decodeCode_error hd]; exact .nil⟩
    | ok i =>
      obtain ⟨c, hc⟩ | ⟨-, lead, hl⟩ := decodeCode_elementCode hd
      · obtain ⟨b0, hs⟩ := stepTo_decodeWord_element hp hd hc
        rw [hs] at hidle hresp
        obtain ⟨rest, ht, hrest⟩ := ih (s := State.emitText _ (codeRegisters b0 c i.width s)) hp hr hidle hresp
        refine ⟨_, ht.trans (List.append_assoc _ _ _), .cons hd hc ?_⟩
        simpa [codeRegisters, List.drop_drop] using hrest
      · rw [stepTo_of_element (fetch_decodeWord_element hp hd), hl,
          runFor_idle (s := code2Effect lead none s) rfl hr] at hresp
        cases hresp

/-- DECODE_WORD's result is the text the Word decodes to. -/
theorem completes_decodeWord_iff {b : Bytes} {v : Variant} {txt : Text} (hp : s.phase = .idle) :
    Completes (.decodeWord b v) s (.ok (.decodedWord txt)) ↔ Decodes (s.tables.cm v) b txt := by
  constructor
  · intro h
    obtain ⟨n, hidle, -, hresp⟩ := h.run_accept hp
    obtain ⟨rest, rfl, h⟩ := decodes_of_runFor (s := accept (.decodeWord b v) (s.submit _)) n rfl rfl hidle hresp
    exact h
  · exact fun h => .of_accept hp (h.delivers (accept (.decodeWord b v) (s.submit _)) rfl rfl rfl rfl)

/-! ### ENCODE (R120) -/

/-- A turn of ENCODE emits the element's value and moves on. -/
theorem stepTo_encode_element {i : Instr} {c : Code} (hp : s.phase = .encode)
    (hd : decodeText (isTokenOf (s.tables.ri s.encoder.v)) (s.src.drop s.encoder.k) = .ok i)
    (hc : elementValue (s.tables.ri s.encoder.v) i = some c) :
    stepTo s = emitCode c i.width (withCloseIndex i s) := by
  rw [stepTo_of_element (fetch_encode_element hp hd)]
  obtain ⟨val, hv, he⟩ | ⟨hn, -⟩ := effect_of_isTextElement (decodeText_isTextElement hd) s
  · obtain rfl : c = val := Option.some.inj (hc.symm.trans hv)
    exact he
  · rw [hc] at hn
    cases hn

/-- A scan of a text that encodes delivers the bytes, after what OUT holds, where no maxLen is given. -/
theorem Encodes.delivers {ri : ReverseIndex} {chars : Text} {bytes : Bytes} (h : Encodes ri chars bytes) :
    ∀ s : State, s.phase = .encode → s.request = none → s.encoder.maxLen = none →
      s.tables.ri s.encoder.v = ri → s.src.drop s.encoder.k = chars →
      Delivers s (.ok (.encoded (s.out ++ bytes))) := by
  induction h with
  | nil =>
    intro s hp hr hm _ hsrc
    refine .of_stepTo ?_
    rw [stepTo_of_command (fetch_encode_end hp (by rw [hsrc]; rfl)), finishEncode, hm, List.append_nil]
    exact .respond hr _
  | @cons chars i c bytes hd hc _ ih =>
    intro s hp hr hm hri hsrc
    subst hri hsrc
    refine .of_stepTo ?_
    rw [stepTo_encode_element hp hd hc, ← List.append_assoc]
    obtain ⟨htab, -, -, -, hsrc, hreq⟩ := withCloseIndex_sameInputs i s
    obtain ⟨hphase, -⟩ := withCloseIndex_sameCommand i s
    have h := ih (emitCode c i.width (withCloseIndex i s))
      (by simp [emitCode, hphase, hp]) (by simp [emitCode, hreq, hr])
      (by simp [emitCode, hm]) (by simp [emitCode, htab]) (by simp [emitCode, hsrc, List.drop_drop])
    simpa [emitCode] using h

theorem Completes.of_encodes {v : Variant} {txt : Text} {b : Bytes} (hp : s.phase = .idle)
    (h : Encodes (s.tables.ri v) txt b) : Completes (.encode txt v none) s (.ok (.encoded b)) :=
  .of_accept hp (h.delivers (accept (.encode txt v none) (s.submit _)) rfl rfl rfl rfl rfl)

end Sys2Proof.Machine
end

section
/-! PROOFS. The round-trip laws of R131 (O54, O55). -/

namespace Sys2Proof.Machine

/-! ### One element -/

theorem codeBytes_length_bounds (c : Code) :
    1 ≤ (codeBytes c).length ∧ (codeBytes c).length ≤ 3 ∧ c.toNat < 256 ^ (codeBytes c).length := by
  have h : c.toNat < 16777216 := c.isLt
  unfold codeBytes
  split
  · simpa
  · split <;> simpa

theorem ReadsCode.width_eq {bytes rest : Bytes} {c : Code} {i : Instr} (h : ReadsCode bytes c rest)
    (hd : decodeCode bytes = .ok i) : i.width = (codeBytes c).length := by
  obtain ⟨-, j, hj, -, hw⟩ := h
  obtain rfl : i = j := Except.ok.inj (hd.symm.trans hj)
  exact hw

theorem Decodes.of_readsCode {m : CharMap} {bytes rest : Bytes} {c : Code} {txt : Text} (h : ReadsCode bytes c rest)
    (ht : Decodes m rest txt) : Decodes m bytes (lookupToken m c (codeBytes c).length ++ txt) := by
  obtain ⟨rfl, i, hd, hc, hw⟩ := h
  rw [← hw]
  exact .cons hd hc (by rwa [hw, List.drop_left])

theorem Encodes.of_readsText {ri : ReverseIndex} {t chars : Text} {c : Code} {bytes : Bytes} (h : ReadsText ri t c)
    (ht : Encodes ri chars bytes) : Encodes ri (t ++ chars) (codeBytes c ++ bytes) := by
  obtain ⟨i, hd, hw, hc⟩ := h chars
  exact .cons hd hc (by rwa [hw, List.drop_left])

/-- c' is what the encoder makes of the Token of c, read from the Word: a Code of the same Token, as c' is read again
where no more bytes follow it than followed c, and c itself where c is canonical or unknown. -/
structure ReEncoded (m : CharMap) (bytes : Bytes) (i : Instr) (c c' : Code) : Prop where
  text : ReadsText (reverseBuild m) (lookupToken m c i.width) c'
  length_le : (codeBytes c').length ≤ i.width
  read : ∀ rest : Bytes, rest.length ≤ (bytes.drop i.width).length → ReadsCode (codeBytes c' ++ rest) c' rest
  token : lookupToken m c' (codeBytes c').length = lookupToken m c i.width
  canonical : (∀ t, charMapLookup m c = some t → reverseLookup (reverseBuild m) t = some c) → c' = c

theorem exists_reEncoded {m : CharMap} (hm : codesRising m = true) (hr : roundTripWf m = true) {bytes : Bytes}
    {i : Instr} {c : Code} (hd : decodeCode bytes = .ok i) (hc : elementCode i = some c) :
    ∃ c', ReEncoded m bytes i c c' := by
  obtain ⟨hreads, hagain⟩ := readsCode_of_decodeCode hd hc
  have hw := hreads.width_eq hd
  obtain ⟨h1, h3, hlt⟩ := codeBytes_length_bounds c
  cases hl : charMapLookup m c with
  | none =>
    have htok : lookupToken m c i.width = fallbackToken c i.width := by simp [lookupToken, hl]
    refine ⟨c, ?_, hw.ge, hagain, by rw [hw], fun _ => rfl⟩
    rw [htok, hw]
    exact readsText_fallbackToken h1 h3 hlt (reverseLookup_fallbackToken hr c h1 h3)
  | some t =>
    have htok : lookupToken m c i.width = t := by simp [lookupToken, hl]
    have hmem := mem_of_charMapLookup hl
    obtain ⟨c', hc'⟩ := reverseLookup_isSome_of_mem hmem
    obtain ⟨hmem', hleast⟩ := reverseLookup_reverseBuild.mp hc'
    obtain ⟨hcode, htoken, -, hcr⟩ := roundTripWf_entry hr hmem'
    refine ⟨c', ?_, ?_, fun rest _ => readsCode_of_wellFormedCode hcode rest, ?_, fun hcan => ?_⟩
    · rw [htok]
      exact readsText_of_wellFormedToken htoken hcr hc'
    · exact hw ▸ codeBytes_length_mono (hleast c hmem)
    · rw [htok]
      simp [lookupToken, charMapLookup_of_mem hm hmem']
    · exact Option.some.inj (hc'.symm.trans (hcan t hl))

/-! ### Whole Words -/

/-- A decoded text encodes to a Word no longer than the one it comes from, which decodes to the same text. -/
theorem Decodes.exists_encodes {m : CharMap} (hm : codesRising m = true) (hr : roundTripWf m = true) {b : Bytes}
    {txt : Text} (h : Decodes m b txt) :
    ∃ b', Encodes (reverseBuild m) txt b' ∧ Decodes m b' txt ∧ b'.length ≤ b.length := by
  induction h with
  | nil => exact ⟨[], .nil, .nil, le_rfl⟩
  | cons hd hc _ ih =>
    obtain ⟨rest, henc, hdec, hlen⟩ := ih
    obtain ⟨c', h⟩ := exists_reEncoded hm hr hd hc
    refine ⟨codeBytes c' ++ rest, henc.of_readsText h.text, h.token ▸ hdec.of_readsCode (h.read rest hlen), ?_⟩
    have := h.length_le
    have := decodeCode_width_le hd
    simp only [List.length_append, List.length_drop] at hlen ⊢
    omega

/-- Allowed at least as many elements as there are bytes, the Codes read are those of the whole Word. -/
theorem codesOf_eq_of_length_le {n k : Nat} {bytes : Bytes} (hn : bytes.length ≤ n) (hk : bytes.length ≤ k) :
    codesOf n bytes = codesOf k bytes := by
  induction n generalizing k bytes with
  | zero =>
    obtain rfl := List.length_eq_zero_iff.mp (Nat.le_zero.mp hn)
    cases k <;> rfl
  | succ n ih =>
    cases k with
    | zero =>
      obtain rfl := List.length_eq_zero_iff.mp (Nat.le_zero.mp hk)
      rfl
    | succ k =>
      simp only [codesOf]
      cases decodeCode bytes with
      | error e => rfl
      | ok i =>
        have hw := instr_width_pos i
        have hd := List.length_drop (i := i.width) (l := bytes)
        exact congrArg _ (ih (by omega) (by omega))

theorem codesOf_cons {bytes : Bytes} {i : Instr} {c : Code} (hd : decodeCode bytes = .ok i)
    (hc : elementCode i = some c) :
    codesOf bytes.length bytes = c :: codesOf (bytes.drop i.width).length (bytes.drop i.width) := by
  have hw := instr_width_pos i
  have hle := decodeCode_width_le hd
  have hlen := List.length_drop (i := i.width) (l := bytes)
  obtain ⟨n, hn⟩ : ∃ n, bytes.length = n + 1 := ⟨bytes.length - 1, by omega⟩
  rw [hn, codesOf, hd]
  simp only [hc, Option.toList, List.singleton_append]
  exact congrArg _ (codesOf_eq_of_length_le (by omega) le_rfl)

/-- A Word is canonical when its first Code is and the rest is. -/
theorem canonicalWord_cons {m : CharMap} {ri : ReverseIndex} {bytes : Bytes} {i : Instr} {c : Code}
    (hd : decodeCode bytes = .ok i) (hc : elementCode i = some c) (h : canonicalWord m ri bytes = true) :
    (∀ t, charMapLookup m c = some t → reverseLookup ri t = some c)
      ∧ canonicalWord m ri (bytes.drop i.width) = true := by
  rw [canonicalWord, codesOf_cons hd hc, List.all_cons, Bool.and_eq_true] at h
  obtain ⟨h, hrest⟩ := h
  exact ⟨fun t ht => by simpa [ht] using h, hrest⟩

/-- A Word of canonical Codes is what its text encodes to. -/
theorem Decodes.encodes_of_canonical {m : CharMap} (hm : codesRising m = true) (hr : roundTripWf m = true) {b : Bytes}
    {txt : Text} (h : Decodes m b txt) (hcan : canonicalWord m (reverseBuild m) b = true) :
    Encodes (reverseBuild m) txt b := by
  induction h with
  | nil => exact .nil
  | cons hd hc _ ih =>
    obtain ⟨hc', hrest⟩ := canonicalWord_cons hd hc hcan
    obtain ⟨c', h⟩ := exists_reEncoded hm hr hd hc
    obtain rfl := h.canonical hc'
    rw [(readsCode_of_decodeCode hd hc).1.1]
    exact (ih hrest).of_readsText h.text

/-! ### The tables -/

/-- Each variant's tables as initialisation leaves them: keys rising, and the reverse index built from the map. -/
theorem tablesWf_variant {t : Tables} (h : tablesWf t = true) (v : Variant) :
    codesRising (t.cm v) = true ∧ t.ri v = reverseBuild (t.cm v) := by
  simp only [tablesWf, charMapWf, Bool.and_eq_true, beq_iff_eq] at h
  obtain ⟨⟨⟨⟨⟨h0, -⟩, ⟨h1, -⟩⟩, hr0⟩, hr1⟩, -⟩ := h
  cases v
  · exact ⟨h0, hr0⟩
  · exact ⟨h1, hr1⟩

/-- Settles O54: element by element, a canonical Code's Token is encoded to the Code's bytes. -/
theorem canonicalWordsRoundTrip : Obligations.CanonicalWordsRoundTrip := by
  intro s b v txt hp ht hr hcan h
  obtain ⟨hm, hri⟩ := tablesWf_variant ht v
  refine .of_encodes hp ?_
  rw [hri] at hcan ⊢
  exact ((completes_decodeWord_iff hp).mp h).encodes_of_canonical hm hr hcan

/-- Settles O55: element by element, a Token is encoded to the least Code that has it. -/
theorem decodedTextRoundTrips : Obligations.DecodedTextRoundTrips := by
  intro s b v txt hp ht hr h
  obtain ⟨hm, hri⟩ := tablesWf_variant ht v
  obtain ⟨b', henc, hdec, -⟩ := ((completes_decodeWord_iff hp).mp h).exists_encodes hm hr
  exact ⟨b', .of_encodes hp (hri ▸ henc), (completes_decodeWord_iff hp).mpr hdec⟩

end Sys2Proof.Machine
end

section
/-! PROOFS. The family of 20_memory.md: reads of the full buffer (O42), the bytes of a Code (O27), CODE2 (O17), the
frame of the text elements (O29), and the end of a scan (O34). -/

namespace Sys2Proof.Machine

variable {s : State}

/-! ### Reads of the full buffer (R52) -/

/-- Settles O42: both sides have the byte of the sequence at each index below n, and none past it. -/
theorem memReadIsSlice : Obligations.MemReadIsSlice := by
  intro fb a n h
  refine ⟨memOfBytes_size fb, List.ext_getElem? fun k => ?_⟩
  by_cases hk : k < n
  · have hin : a + k < fb.length := by omega
    rw [memRead_getElem? _ _ _ _ hk, memByte_memOfBytes, List.getElem?_take_of_lt hk, List.getElem?_drop]
    simp [hin]
  · rw [List.getElem?_eq_none (by simp; omega), List.getElem?_eq_none (by simp; omega)]

/-! ### The bytes of a Code (R126) -/

/-- A byte field of a Code, as shift and mask. -/
theorem extractByte_toNat (val : Code) (k : Nat) : (val.extractLsb' k 8).toNat = (val.toNat >>> k) &&& 0xFF := by
  rw [BitVec.extractLsb'_toNat]
  exact (Nat.and_two_pow_sub_one_eq_mod _ 8).symm

/-- Settles O27: each byte is a masked field, and the mask is idle at the top of the one- and two-byte forms. -/
theorem codeBytesByMagnitude : Obligations.CodeBytesByMagnitude := by
  intro val
  have idle {n : Nat} (h : n < 256) : n &&& 0xFF = n := Nat.and_two_pow_sub_one_of_lt_two_pow (n := 8) h
  unfold codeBytes
  split
  · next h => simp only [List.map, extractByte_toNat, Nat.shiftRight_zero, idle h]
  · split
    · next h =>
      have htop : val.toNat >>> 8 < 256 := by omega
      simp only [List.map, extractByte_toNat, Nat.shiftRight_zero, idle htop]
    · simp only [List.map, extractByte_toNat, Nat.shiftRight_zero]

/-! ### CODE2 (R102) -/

theorem code2Bytes_inj {lead lead' : Byte} {second second' : Option Byte}
    (h : code2Bytes lead second = code2Bytes lead' second') : lead = lead' ∧ second = second' := by
  obtain ⟨hlead, hsecond⟩ := List.cons.inj h
  exact ⟨hlead, by simpa using congrArg List.head? hsecond⟩

/-- A CODE2 element of any row runs CODE2's rule on the lead and second byte it is spelled with. -/
theorem effect_of_isCode2 {i : Instr} {lead : Byte} {second : Option Byte} (hi : isCode2 i = true)
    (he : encode i = .code (code2Bytes lead second)) (s : State) : effect i s = code2Effect lead second s := by
  cases i with
  | code2D0 _ _ | code2D8 _ _ | code2DA _ | code2E2 _ _ =>
    obtain ⟨rfl, rfl⟩ := code2Bytes_inj (StreamWords.code.inj he)
    rfl
  | _ => cases hi

/-- What an assembled Code leaves in the decoder's registers, in either command (R101 to R104). -/
theorem codeEffect_result (b0 : Byte) (code : Code) (w : Nat) (s : State) :
    CodeResult code.toNat w s (codeEffect b0 code w s) ∧ (codeEffect b0 code w s).decoder.b0 = b0 := by
  have hd : (codeEffect b0 code w s).decoder = (codeRegisters b0 code w s).decoder := by
    obtain ⟨-, h⟩ | ⟨-, h⟩ := deliverToken_cases (codeRegisters b0 code w s) <;> rw [codeEffect, h] <;> rfl
  simp [CodeResult, hd, codeRegisters]

theorem Raised.raise (s : State) (e : Status) (n : Nat) : Raised e n (s.raise e n) :=
  ⟨rfl, rfl, rfl, rfl, rfl, rfl, rfl⟩

/-- Settles O17: all four rows share CODE2's rule, which looks the Code up or raises TruncatedCode. -/
theorem code2LooksUpOrTruncates : Obligations.Code2LooksUpOrTruncates := by
  intro s i lead second hi he
  have hexec : exec i s = .next (code2Effect lead second s) := by rw [exec_eq_effect, effect_of_isCode2 hi he]
  constructor
  · rintro b1 rfl
    obtain ⟨hres, hb0⟩ := codeEffect_result lead (code2Value lead b1) 2 s
    exact ⟨_, hexec, code2Value_toNat lead b1 ▸ hres, hb0⟩
  · rintro rfl
    exact ⟨_, hexec, .raise _ _ _, .refl s, rfl, rfl, rfl, rfl, rfl⟩

/-! ### The frame of the text elements (R120 to R126, R216) -/

/-- Noting the closing index writes at most the encoder's j, and nothing for an element that is no group. -/
theorem withCloseIndex_eq (i : Instr) (s : State) :
    ∃ j, withCloseIndex i s = s.setEncoder { s.encoder with j := j }
      ∧ ((i = .crlf ∨ ∃ c, i = .char c) → j = s.encoder.j) := by
  cases i with
  | escNamed _ | escHex _ => exact ⟨_, rfl, by simp⟩
  | _ => exact ⟨_, rfl, fun _ => rfl⟩

/-- Settles O29: a text element notes the closing index of a group, then emits a Code or raises. -/
theorem textElementsFrame : Obligations.TextElementsFrame := by
  intro s t i hi ht
  have htext : isTextElement i = true := by
    obtain ⟨_, rfl⟩ | ⟨_, rfl⟩ | rfl | ⟨_, rfl⟩ := hi <;> rfl
  obtain ⟨j, hj, hkeep⟩ := withCloseIndex_eq i s
  rw [exec_eq_effect] at ht
  cases ht
  obtain ⟨val, -, he⟩ | ⟨-, he⟩ := effect_of_isTextElement htext s <;> rw [he, hj]
  · refine ⟨.refl s, rfl, rfl, rfl, rfl, rfl, hkeep, .inr ⟨.refl s, ?_, rfl, rfl, rfl, rfl⟩⟩
    exact .of_emit s (codeBytes val) s.expander
  · exact ⟨.refl s, rfl, rfl, rfl, rfl, rfl, hkeep, .inl ⟨.raise _ _ _, rfl, rfl, rfl⟩⟩

/-! ### The end of a scan (R106, R120, R150, R180, R192) -/

/-- A fetch that answers Ok(r) is a step to the idle block with STATUS 0 and that response (R212). -/
theorem step_of_fetch_respond_ok {u : State} {r : Result} (h : fetch s = .command (u.respond (.ok r))) :
    ∃ t, step s = .next t ∧ t.phase = .idle ∧ t.status = .ok ∧ t.response = some (.ok r) :=
  ⟨u.respond (.ok r), by rw [step_eq_stepTo, stepTo_of_command h], rfl, rfl, rfl⟩

theorem finishEncode_of_maxLen_none (h : s.encoder.maxLen = none) :
    finishEncode s = s.respond (.ok (.encoded s.out)) := by
  rw [finishEncode, h, checkCapacity]

theorem finishCompress_of_maxLen_none (h : s.compressor.maxLen = none) :
    finishCompress s = s.respond (.ok (.compressed s.out)) := by
  rw [finishCompress, h, checkCapacity]

theorem splitStep_end (h : s.b.length ≤ s.splitter.p) : splitStep s = finishSplit s := by
  simp [splitStep, List.getElem?_eq_none h]

theorem compressStep_end (h : s.b.length ≤ s.compressor.i) : compressStep s = finishCompress s := by
  simp [compressStep, List.getElem?_eq_none h]

/-- Settles O34: with nothing left to scan, each engine fetches the end of its command. -/
theorem scanEndDeliversResult : Obligations.ScanEndDeliversResult := by
  refine fun s => ⟨fun hp hl => ?_, fun hp hl => ?_, fun hp hl hm => ?_, fun hp hl => ?_, fun hp hl hm => ?_⟩ <;>
    apply step_of_fetch_respond_ok
  · exact fetch_expand_end hp (by rw [List.drop_eq_nil_of_le hl]; rfl)
  · exact fetch_decodeWord_end hp (by rw [List.drop_eq_nil_of_le hl]; rfl)
  · rw [fetch_encode_end hp (by rw [List.drop_eq_nil_of_le hl]; rfl), finishEncode_of_maxLen_none hm]
  · rw [fetch_split hp, splitStep_end hl, finishSplit]
  · rw [fetch_compress hp, compressStep_end hl, finishCompress_of_maxLen_none hm]

end Sys2Proof.Machine
end

section
/-! PROOFS. The family of 30_encoding.md: the fields and the bytes of a pointer (O2, O3), an element as the head of its
stream (O5), and sample words (O1). -/

namespace Sys2Proof.Machine

/-! ### Fields of masked bytes -/

/-- The bits k up to k + w of a number, as mask and shift. -/
theorem and_mask_shiftRight (n w k : Nat) : (n &&& (2 ^ w - 1) <<< k) >>> k = n / 2 ^ k % 2 ^ w := by
  rw [Nat.shiftRight_and_distrib, Nat.shiftLeft_shiftRight, Nat.and_two_pow_sub_one_eq_mod, Nat.shiftRight_eq_div_pow]

/-! The masks of R73 to R75. -/

theorem and_0x03 (n : Nat) : n &&& 0x03 = n % 4 := Nat.and_two_pow_sub_one_eq_mod n 2
theorem and_0x07 (n : Nat) : n &&& 0x07 = n % 8 := Nat.and_two_pow_sub_one_eq_mod n 3
theorem and_0x1F (n : Nat) : n &&& 0x1F = n % 32 := Nat.and_two_pow_sub_one_eq_mod n 5
theorem and_0xFF (n : Nat) : n &&& 0xFF = n % 256 := Nat.and_two_pow_sub_one_eq_mod n 8
theorem and_0x18_shiftRight (n : Nat) : (n &&& 0x18) >>> 3 = n / 8 % 4 := and_mask_shiftRight n 2 3
theorem and_0xE0_shiftRight (n : Nat) : (n &&& 0xE0) >>> 5 = n / 32 % 8 := and_mask_shiftRight n 3 5
theorem and_0x1F00_shiftRight (n : Nat) : (n &&& 0x1F00) >>> 8 = n / 256 % 32 := and_mask_shiftRight n 5 8

/-- A field below a shifted one is or-ed to it as it is added. -/
theorem shiftLeft_or {a b k : Nat} (h : b < 2 ^ k) : a <<< k ||| b = a * 2 ^ k + b := by
  rw [← Nat.shiftLeft_add_eq_or_of_lt h, Nat.shiftLeft_eq]

theorem isPtrLead_iff {b0 : Byte} : isPtrLead b0 = true ↔ 0xF0 ≤ b0.toNat ∧ b0.toNat ≤ 0xF3 := by
  simp [isPtrLead]

/-! ### The fields and the bytes of a pointer (R72 to R75) -/

theorem pointerLen5_toNat (b0 b1 : Byte) : (pointerLen5 b0 b1).toNat = b0.toNat % 4 * 8 + b1.toNat / 32 := by
  have h1 : b1.toNat < 256 := b1.isLt
  simp only [pointerLen5, BitVec.toNat_add, BitVec.toNat_shiftLeft, BitVec.toNat_ushiftRight, BitVec.toNat_setWidth,
    BitVec.toNat_and, BitVec.toNat_ofNat, Nat.reducePow, Nat.reduceMod, and_0x03, and_0xE0_shiftRight]
  omega

theorem pointerJv_toNat (b1 b2 : Byte) : (pointerJv b1 b2).toNat = b1.toNat % 32 * 256 + b2.toNat := by
  have h2 : b2.toNat < 2 ^ 8 := b2.isLt
  simp only [pointerJv, BitVec.toNat_or, BitVec.toNat_shiftLeft, BitVec.toNat_setWidth, BitVec.toNat_and,
    BitVec.toNat_ofNat, Nat.reducePow, Nat.reduceMod, and_0x1F]
  simp (disch := omega) only [Nat.mod_eq_of_lt]
  exact shiftLeft_or h2

theorem pointerByte0_toNat (len5 : BitVec 5) : (pointerByte0 len5).toNat = 0xF0 + len5.toNat / 8 := by
  revert len5; decide

theorem pointerByte1_toNat (len5 : BitVec 5) (jv : JumpIndex) :
    (pointerByte1 len5 jv).toNat = len5.toNat % 8 * 32 + jv.toNat / 256 := by
  have hj : jv.toNat < 8192 := jv.isLt
  simp only [pointerByte1, BitVec.toNat_or, BitVec.toNat_shiftLeft, BitVec.toNat_ushiftRight, BitVec.toNat_setWidth,
    BitVec.toNat_and, BitVec.toNat_ofNat, Nat.reducePow, Nat.reduceMod, and_0x07, and_0x1F00_shiftRight]
  simp (disch := omega) only [Nat.mod_eq_of_lt]
  exact shiftLeft_or (by omega)

theorem pointerByte2_toNat (jv : JumpIndex) : (pointerByte2 jv).toNat = jv.toNat % 256 := by
  simp [pointerByte2, and_0xFF]

/-- R73 and R74 invert R75. -/
theorem pointerLen5_pointerByte (len5 : BitVec 5) (jv : JumpIndex) :
    pointerLen5 (pointerByte0 len5) (pointerByte1 len5 jv) = len5 := by
  have hl : len5.toNat < 32 := len5.isLt
  have hj : jv.toNat < 8192 := jv.isLt
  apply BitVec.eq_of_toNat_eq
  rw [pointerLen5_toNat, pointerByte0_toNat, pointerByte1_toNat]
  omega

theorem pointerJv_pointerByte (len5 : BitVec 5) (jv : JumpIndex) :
    pointerJv (pointerByte1 len5 jv) (pointerByte2 jv) = jv := by
  have hj : jv.toNat < 8192 := jv.isLt
  apply BitVec.eq_of_toNat_eq
  rw [pointerJv_toNat, pointerByte1_toNat, pointerByte2_toNat]
  omega

theorem decodeCompressed_pointerBytes (len5 : BitVec 5) (jv : JumpIndex) :
    decodeCompressed (pointerBytes len5 jv) = .ok (.ptr len5 jv) := by
  rw [pointerBytes, decodeCompressed, decodePtrLit, if_pos (pointerByte0_lead len5), pointerLen5_pointerByte,
    pointerJv_pointerByte]

/-- R75 inverts R73 and R74 where the lead byte is a pointer's. -/
theorem pointerBytes_fields {b0 : Byte} (h : isPtrLead b0 = true) (b1 b2 : Byte) :
    pointerBytes (pointerLen5 b0 b1) (pointerJv b1 b2) = [b0, b1, b2] := by
  obtain ⟨hlo, hhi⟩ := isPtrLead_iff.mp h
  have h1 : b1.toNat < 256 := b1.isLt
  have h2 : b2.toNat < 256 := b2.isLt
  have hb0 : pointerByte0 (pointerLen5 b0 b1) = b0 :=
    BitVec.eq_of_toNat_eq (by rw [pointerByte0_toNat, pointerLen5_toNat]; omega)
  have hb1 : pointerByte1 (pointerLen5 b0 b1) (pointerJv b1 b2) = b1 :=
    BitVec.eq_of_toNat_eq (by rw [pointerByte1_toNat, pointerLen5_toNat, pointerJv_toNat]; omega)
  have hb2 : pointerByte2 (pointerJv b1 b2) = b2 :=
    BitVec.eq_of_toNat_eq (by rw [pointerByte2_toNat, pointerJv_toNat]; omega)
  rw [pointerBytes, hb0, hb1, hb2]

/-- Settles O2: both sides of R75 are the same fields of the length and of the index modulo 2^13; R73 and R74 invert
them. -/
theorem pointerBytesAreWireExact : Obligations.PointerBytesAreWireExact := by
  intro length j hlo hhi
  have hlen : (BitVec.ofNat 5 (length - 4)).toNat = length - 4 := Nat.mod_eq_of_lt (by omega)
  have hjv : (BitVec.ofNat 13 j).toNat = j % 8192 := rfl
  refine ⟨?_, fun hj => ⟨_, _, decodeCompressed_pointerBytes _ _, ?_, ?_⟩⟩
  · have h0 : 0xF0 ||| (length - 4) / 8 % 4 = 0xF0 + (length - 4) / 8 % 4 := shiftLeft_or (a := 15) (k := 4) (by omega)
    have h1 : ((length - 4) % 8) <<< 5 ||| j / 256 % 32 = (length - 4) % 8 * 32 + j / 256 % 32 :=
      shiftLeft_or (by omega)
    simp only [pointerBytes, List.map_cons, List.map_nil, pointerByte0_toNat, pointerByte1_toNat, pointerByte2_toNat,
      hlen, hjv, and_0x18_shiftRight, and_0x07, and_0x1F00_shiftRight, and_0xFF, h0, h1, List.cons.injEq, and_true]
    omega
  · rw [pointerLength, hlen]; omega
  · rw [hjv]; omega

/-- Settles O3: every form is the same field, and the pointer the encoder writes reaches each length. -/
theorem pointerFieldsOfBytes : Obligations.PointerFieldsOfBytes := by
  refine ⟨fun b0 b1 b2 => ?_, fun length hlo hhi => ?_⟩
  · have h1 : b1.toNat < 256 := b1.isLt
    have h2 : b2.toNat < 256 := b2.isLt
    have hlen : (b0.toNat % 4) <<< 3 ||| b1.toNat / 32 % 8 = b0.toNat % 4 * 8 + b1.toNat / 32 % 8 :=
      shiftLeft_or (by omega)
    have hjv : (b1.toNat % 32) <<< 8 ||| b2.toNat = b1.toNat % 32 * 256 + b2.toNat := shiftLeft_or h2
    simp only [pointerLength, pointerLen5_toNat, pointerJv_toNat, and_0x03, and_0x1F, and_0xE0_shiftRight, hlen, hjv,
      isPtrLead_iff, ← BitVec.toNat_inj, BitVec.toNat_ofNat]
    refine ⟨?_, ?_, ?_, ?_, ?_, fun hlead => ⟨?_, ?_⟩, trivial⟩ <;> omega
  · refine ⟨pointerByte0 (.ofNat 5 (length - 4)), pointerByte1 (.ofNat 5 (length - 4)) 0, pointerByte0_lead _, ?_⟩
    rw [pointerLen5_pointerByte, pointerLength, BitVec.toNat_ofNat]
    omega

/-! ### An element is the head of its stream (R70, R80): what each decoder reads is well-formed and spells it -/

theorem decodeCompressed_head {bytes : Bytes} {i : Instr} (h : decodeCompressed bytes = .ok i) :
    i.wellFormed = true ∧ encode i = .compressed (bytes.take i.width) := by
  obtain ⟨b0, b1, b2, rest, rfl, hl, rfl⟩ | ⟨b0, rest, rfl, -, rfl⟩ := decodeCompressed_cases h
  · exact ⟨rfl, congrArg StreamWords.compressed (pointerBytes_fields hl b1 b2)⟩
  · exact ⟨rfl, rfl⟩

/-- A CODE2 row is spelled with the lead and the second byte it was given, whatever they are. -/
theorem code2Row_encode {b0 : Byte} {second : Option Byte} {i : Instr} (h : code2Row b0 second = some i) :
    i.wellFormed = true ∧ encode i = .code (code2Bytes b0 second) := by
  obtain ⟨a, rfl, rfl⟩ | ⟨a, rfl, rfl⟩ | ⟨rfl, rfl⟩ | ⟨a, rfl, rfl⟩ := code2Row_cases h <;> exact ⟨rfl, rfl⟩

theorem decodeCode_head {bytes : Bytes} {i : Instr} (h : decodeCode bytes = .ok i) :
    i.wellFormed = true ∧ encode i = .code (bytes.take i.width) := by
  obtain ⟨b0, rest, rfl, hr | ⟨-, hp, b1, b2, rest', rfl, rfl⟩ | ⟨hl, -, rfl⟩⟩ := decodeCode_cases h
  · obtain ⟨hwf, he⟩ := code2Row_encode hr
    refine ⟨hwf, ?_⟩
    rw [he, code2Row_width hr]
    cases rest <;> rfl
  · exact ⟨rfl, by rw [encode, leadF0_setWidth b0 hp]; rfl⟩
  · exact ⟨by simp [Instr.wellFormed, code1Ok, hl], rfl⟩

theorem decodeText_head {isToken : Text → Bool} {chars : Text} {i : Instr} (h : decodeText isToken chars = .ok i) :
    i.wellFormed = true ∧ encode i = .text (chars.take i.width) := by
  obtain ⟨body, rest, rfl, hn, rfl⟩ | ⟨rest, rfl, rfl⟩ | ⟨c, rest, rfl, hc, -, rfl⟩ := decodeText_cases h
  · have hw : body.length + 2 = (bracketGroup body).length := by simp [bracketGroup]
    have hb : bodyOk body = true := by simp [bodyOk, hn]
    split <;> exact ⟨hb, by rw [encode, Instr.width, hw, List.take_left]⟩
  · exact ⟨rfl, rfl⟩
  · exact ⟨by simp [Instr.wellFormed, charOk, hc], rfl⟩

/-- Settles O5: by the stream, as each decoder's element is well-formed and spells the units at the head. -/
theorem decodedElementIsHeadOfStream : Obligations.DecodedElementIsHeadOfStream := by
  intro isToken ws i h
  cases ws with
  | compressed bytes =>
    obtain ⟨hwf, he⟩ := decodeCompressed_head h
    exact ⟨hwf, he, instr_width_pos i, decodeCompressed_width_le h⟩
  | code bytes =>
    obtain ⟨hwf, he⟩ := decodeCode_head h
    exact ⟨hwf, he, instr_width_pos i, decodeCode_width_le h⟩
  | text chars =>
    obtain ⟨hwf, he⟩ := decodeText_head h
    exact ⟨hwf, he, instr_width_pos i, decodeText_width_le h⟩

/-- Settles O1: each word is evaluated by its stream's decoder. -/
theorem sampleWordsDecode : Obligations.SampleWordsDecode := by
  unfold Obligations.SampleWordsDecode
  decide

end Sys2Proof.Machine
end

section
/-! PROOFS. The family of 41_charmap_decode.md: the order of the decoder's tests (O7), DECODE_WORD's turn (O20), CODE1
(O16) and CODE3 (O18). -/

namespace Sys2Proof.Machine

variable {s : State} {b0 : Byte}

/-! ### Codes assembled and looked up (R101, R103, R106) -/

theorem code1Value_toNat (b0 : Byte) : (code1Value b0).toNat = b0.toNat := by
  have h : b0.toNat < 256 := b0.isLt
  simp only [code1Value, BitVec.toNat_ofNat]
  omega

theorem leadF0_toNat (a : BitVec 2) : (leadF0 a).toNat = 0xF0 + a.toNat := by
  revert a; decide

/-- Settles O16: CODE1 is an assembled Code whose value is its byte. -/
theorem code1LooksUp : Obligations.Code1LooksUp := by
  intro s b0
  obtain ⟨hres, hb0⟩ := codeEffect_result b0 (code1Value b0) 1 s
  exact ⟨_, rfl, code1Value_toNat b0 ▸ hres, hb0⟩

/-- Settles O18: CODE3 is an assembled Code of a lead F0 to F3 and two more bytes. -/
theorem code3LooksUp : Obligations.Code3LooksUp := by
  intro s a b1 b2
  obtain ⟨hres, hb0⟩ := codeEffect_result (leadF0 a) (code3Value (leadF0 a) b1 b2) 3 s
  rw [code3Value_toNat, leadF0_toNat] at hres
  exact ⟨_, rfl, hres, (congrArg BitVec.toNat hb0).trans (leadF0_toNat a)⟩

/-- Settles O20: outside DECODE_NEXT an assembled Code's Token is emitted, and its registers move pos on. -/
theorem decodeWordEmitsToken : Obligations.DecodeWordEmitsToken := by
  intro s i code hp hc
  obtain ⟨b0, he⟩ := effect_of_elementCode hc
  refine ⟨effect i s, exec_eq_effect i s, ?_⟩
  rw [he, codeEffect_emits (by simp [hp])]
  exact ⟨rfl, rfl, .refl s⟩

/-! ### The order of the decoder's tests (R100) -/

theorem isCode2Lead_iff :
    isCode2Lead b0 = true ↔ (0xD0 ≤ b0.toNat ∧ b0.toNat ≤ 0xDA) ∨ b0 = 0xE2#8 ∨ b0 = 0xE3#8 := by
  simp [isCode2Lead, or_assoc]

/-- A CODE2 row is one of the four CODE2 elements. -/
theorem isCode2_of_code2Row {second : Option Byte} {i : Instr} (h : code2Row b0 second = some i) :
    isCode2 i = true := by
  obtain ⟨a, -, rfl⟩ | ⟨a, -, rfl⟩ | ⟨-, rfl⟩ | ⟨a, -, rfl⟩ := code2Row_cases h <;> rfl

/-- Test (1): a CODE2 lead is read with the byte after it, where there is one. -/
theorem decodeCode_of_isCode2Lead (h : isCode2Lead b0 = true) (rest : Bytes) :
    ∃ i, decodeCode (b0 :: rest) = .ok i ∧ isCode2 i = true ∧ encode i = .code ((b0 :: rest).take 2) := by
  obtain ⟨i, hi⟩ := Option.isSome_iff_exists.mp ((code2Row_isSome b0 rest.head?).trans h)
  refine ⟨i, by simp [decodeCode, hi], isCode2_of_code2Row hi, ?_⟩
  rw [(code2Row_encode hi).2]
  cases rest <;> rfl

/-- Test (2): a lead F0 to F3 before two more bytes is CODE3. -/
theorem decodeCode_eq_code3 (h : isPtrLead b0 = true) (b1 b2 : Byte) (rest : Bytes) :
    decodeCode (b0 :: b1 :: b2 :: rest) = .ok (.code3 (b0.setWidth 2) b1 b2) := by
  have hn : code2Row b0 (some b1) = none := code2Row_eq_none (isCode2Lead_of_isPtrLead h) _
  simp [decodeCode, hn, decodeCode31, h]

/-- Test (3): a lead of neither kind, or a CODE3 lead before fewer than two more bytes, is CODE1. -/
theorem decodeCode_eq_code1 (h : isCode2Lead b0 = false) {rest : Bytes} (hp : isPtrLead b0 = true → rest.length < 2) :
    decodeCode (b0 :: rest) = .ok (.code1 b0) := by
  have hd : decodeCode31 b0 rest = .code1 b0 := by
    unfold decodeCode31
    split
    · next b1 b2 rest => exact if_neg fun hl => absurd (hp hl) (by simp)
    · rfl
  simp [decodeCode, code2Row_eq_none h, hd]

/-- Both decoder commands fetch the element at pos. -/
theorem fetch_decode_element {i : Instr} (hp : s.phase = .decodeNext ∨ s.phase = .decodeWord)
    (hd : decodeCode (s.b.drop s.decoder.pos) = .ok i) : fetch s = .element i :=
  hp.elim (fetch_decodeNext_element · hd) (fetch_decodeWord_element · hd)

theorem drop_eq_cons_of_getElem? {xs : Bytes} {n : Nat} {x : Byte} (h : xs[n]? = some x) :
    xs.drop n = x :: xs.drop (n + 1) := by
  obtain ⟨hn, rfl⟩ := List.getElem?_eq_some_iff.mp h
  exact List.drop_eq_getElem_cons hn

/-- Settles O7: the decoder's three tests, on the input from pos on. -/
theorem codeStreamClassification : Obligations.CodeStreamClassification := by
  intro s b0 hp hb
  have h0 := drop_eq_cons_of_getElem? hb
  rw [← isCode2Lead_iff]
  refine ⟨fun hl => ?_, fun ⟨hlo, hhi, hlen⟩ => ?_, fun hl hl3 => ?_⟩
  · obtain ⟨i, hd, hi, he⟩ := decodeCode_of_isCode2Lead hl (s.b.drop (s.decoder.pos + 1))
    rw [← h0] at hd he
    exact ⟨i, fetch_decode_element hp hd, hi, he⟩
  · have hptr : isPtrLead b0 = true := isPtrLead_iff.mpr ⟨hlo, hhi⟩
    have hb1 : s.b[s.decoder.pos + 1]? = some s.b[s.decoder.pos + 1] := List.getElem?_eq_getElem _
    have hb2 : s.b[s.decoder.pos + 2]? = some s.b[s.decoder.pos + 2] := List.getElem?_eq_getElem _
    rw [drop_eq_cons_of_getElem? hb1, drop_eq_cons_of_getElem? hb2] at h0
    exact ⟨_, _, _, leadF0_setWidth b0 hptr, hb1, hb2,
      fetch_decode_element hp (h0 ▸ decodeCode_eq_code3 hptr _ _ _)⟩
  · have hshort (hpl : isPtrLead b0 = true) : (s.b.drop (s.decoder.pos + 1)).length < 2 := by
      obtain ⟨hlo, hhi⟩ := isPtrLead_iff.mp hpl
      have hend : ¬ s.decoder.pos + 2 < s.b.length := fun h => hl3 ⟨hlo, hhi, h⟩
      rw [List.length_drop]
      omega
    exact fetch_decode_element hp (h0 ▸ decodeCode_eq_code1 (Bool.eq_false_iff.mpr hl) hshort)

end Sys2Proof.Machine
end

section
/-! PROOFS. The family of 42_charmap_encode.md: CHAR (O26), ESC.NAMED (O23), the fallback Token as a hex escape (O28),
and the causes of EncodingError (O37). -/

namespace Sys2Proof.Machine

variable {s : State} {i : Instr} {val : Code}

/-! ### What a text element answers, by its value (R120 to R126, R216) -/

theorem effect_of_elementValue_eq_some (hi : isTextElement i = true)
    (hv : elementValue (s.tables.ri s.encoder.v) i = some val) :
    effect i s = emitCode val i.width (withCloseIndex i s) := by
  obtain ⟨val', hv', he⟩ | ⟨hn, -⟩ := effect_of_isTextElement hi s
  · obtain rfl : val = val' := Option.some.inj (hv.symm.trans hv')
    exact he
  · cases hv.symm.trans hn

theorem effect_of_elementValue_eq_none (hi : isTextElement i = true)
    (hv : elementValue (s.tables.ri s.encoder.v) i = none) :
    effect i s = (withCloseIndex i s).raise .encodingError s.encoder.k := by
  obtain ⟨val, hv', -⟩ | ⟨-, he⟩ := effect_of_isTextElement hi s
  · cases hv.symm.trans hv'
  · exact he

theorem Emitted.of_elementValue (hi : isTextElement i = true)
    (hv : elementValue (s.tables.ri s.encoder.v) i = some val) : Emitted val i.width s (effect i s) := by
  rw [effect_of_elementValue_eq_some hi hv]
  exact ⟨by simp [emitCode], rfl, by simp [emitCode], withCloseIndex_sameCommand i s⟩

theorem Raised.of_elementValue (hi : isTextElement i = true)
    (hv : elementValue (s.tables.ri s.encoder.v) i = none) :
    Raised .encodingError s.encoder.k (effect i s) := by
  rw [effect_of_elementValue_eq_none hi hv]
  exact .raise _ _ _

/-! ### CHAR (R125) and ESC.NAMED (R122) -/

/-- Settles O26: the value of a character is what the reverse index says of it alone. -/
theorem charEmitsTokenCode : Obligations.CharEmitsTokenCode := fun _ _ =>
  ⟨fun _ hl => ⟨_, exec_eq_effect _ _, .of_elementValue rfl hl⟩,
    fun hl => ⟨_, exec_eq_effect _ _, .of_elementValue rfl hl⟩⟩

/-- Settles O23: a group in the reverse index is read as ESC.NAMED, whose value is the group's Code. -/
theorem escNamedEmitsTokenCode : Obligations.EscNamedEmitsTokenCode := by
  intro s body rest val hl
  have htoken : isTokenOf (s.tables.ri s.encoder.v) (bracketGroup body) = true := by simp [isTokenOf, hl]
  have hwidth : (bracketGroup body).length = (Instr.escNamed body).width := by simp [bracketGroup, Instr.width]
  refine ⟨fun hn => by rw [decodeText_bracketGroup _ hn, if_pos htoken], _, exec_eq_effect _ s, ?_, ?_⟩
  · exact hwidth ▸ .of_elementValue rfl hl
  · rw [effect_of_elementValue_eq_some (i := .escNamed body) rfl hl]
    rfl

/-! ### The fallback Token of an unknown Code (R83, R123, R131) -/

theorem codeBytes_length (c : Code) :
    (codeBytes c).length = if c.toNat < 0x100 then 1 else if c.toNat < 0x10000 then 2 else 3 := by
  unfold codeBytes
  split
  · rfl
  · split <;> rfl

/-- The w bytes of a Code are 2w digits, which a hex escape holds and reads back. -/
theorem elementValue_fallbackBody (ri : ReverseIndex) {c : Code} {w : Nat} (hw : (codeBytes c).length = w) :
    elementValue ri (.escHex (fallbackBody c w)) = some c := by
  obtain ⟨h1, h3, hlt⟩ := codeBytes_length_bounds c
  rw [hw] at h1 h3 hlt
  have hparse : parseHex (hexText (2 * w) c.toNat) = c.toNat := by
    rw [parseHex_hexText, pow_mul]
    exact Nat.mod_eq_of_lt hlt
  simp [elementValue, hexEscapeDigits_fallbackBody c h1 h3, hparse]

theorem escHex_fallbackBody_width (c : Code) (w : Nat) : (Instr.escHex (fallbackBody c w)).width = 2 * w + 4 := by
  simp [Instr.width, fallbackBody, hexText_length]

/-- Settles O28: at the natural width the fallback Token's body is a hex escape whose value is the Code. -/
theorem unknownCodeReencodes : Obligations.UnknownCodeReencodes := by
  intro s code w h
  have hw : (codeBytes code).length = w := by
    rw [codeBytes_length]
    obtain ⟨rfl, h⟩ | ⟨rfl, hlo, hhi⟩ | ⟨rfl, h⟩ := h
    · rw [if_pos h]
    · rw [if_neg (by omega), if_pos hhi]
    · rw [if_neg (by omega), if_neg (by omega)]
  obtain ⟨hout, -, hk, -⟩ : Emitted code _ s _ := .of_elementValue rfl (elementValue_fallbackBody _ hw)
  rw [escHex_fallbackBody_width, ← Nat.add_assoc] at hk
  exact ⟨_, _, fallbackToken_eq code w, rbrace_notMem_fallbackBody code w, exec_eq_effect _ s, hout, hw, hk⟩

/-! ### The causes of EncodingError (R121, R127, R213) -/

theorem decodeText_cons_eq_char (isToken : Text → Bool) {c : Char} {rest : Text} (h : c ≠ lbrace)
    (hcrlf : ¬ (c = charCR ∧ rest.head? = some charLF)) : decodeText isToken (c :: rest) = .ok (.char c) := by
  rw [decodeText, if_neg h, if_neg hcrlf]

theorem decodeText_eq_unclosedGroup (isToken : Text → Bool) {rest : Text} (h : rbrace ∉ rest) :
    decodeText isToken (lbrace :: rest) = .error .unclosedGroup := by
  rw [decodeText, if_pos rfl, groupBody_eq_none.mpr h]

theorem elementValue_escHex_eq_none (ri : ReverseIndex) {body : Text} (h : isHexEscape body = false) :
    elementValue ri (.escHex body) = none := by
  rw [elementValue, Option.map_eq_none_iff]
  simpa [isHexEscape] using h

/-- The source from an index on, where there is a character at that index. -/
theorem src_drop_eq_cons {src : Text} {k : Nat} {c : Char} (h : src[k]? = some c) :
    src.drop k = c :: src.drop (k + 1) := by
  obtain ⟨hk, rfl⟩ := List.getElem?_eq_some_iff.mp h
  exact List.drop_eq_getElem_cons hk

/-- A turn of ENCODE on an element without a value raises EncodingError(k). -/
theorem step_encode_raises (hp : s.phase = .encode)
    (hd : decodeText (isTokenOf (s.tables.ri s.encoder.v)) (s.src.drop s.encoder.k) = .ok i)
    (hv : elementValue (s.tables.ri s.encoder.v) i = none) :
    ∃ t, step s = .next t ∧ Raised .encodingError s.encoder.k t := by
  refine ⟨effect i s, ?_, .of_elementValue (decodeText_isTextElement hd) hv⟩
  rw [step_eq_stepTo, stepTo_of_element (fetch_encode_element hp hd)]

/-- Settles O37: in three of the cases the element read has no value; in the third listed no element is read. -/
theorem encodingErrorCauses : Obligations.EncodingErrorCauses := by
  refine fun s hp => ⟨fun c hc hl hcrlf hri => ?_, fun body rest hs hn hri hhex => ?_, fun hc hn => ?_,
    fun hcr hlf hri => ?_⟩
  · refine step_encode_raises (i := .char c) hp ?_ hri
    rw [src_drop_eq_cons hc]
    exact decodeText_cons_eq_char _ hl (by rwa [List.head?_drop])
  · refine step_encode_raises hp ?_ (elementValue_escHex_eq_none _ hhex)
    have hgroup : s.src.drop s.encoder.k = bracketGroup body ++ rest := by simp [hs, bracketGroup]
    rw [hgroup, decodeText_bracketGroup _ hn, if_neg (by simp [isTokenOf, hri])]
  · have hfetch : fetch s = .command (s.raise .encodingError s.encoder.k) :=
      fetch_encode_unclosed hp (by rw [src_drop_eq_cons hc, decodeText_eq_unclosedGroup _ hn])
    exact ⟨_, by rw [step_eq_stepTo, stepTo_of_command hfetch], .raise _ _ _⟩
  · refine step_encode_raises (i := .crlf) hp ?_ hri
    rw [src_drop_eq_cons hcr, src_drop_eq_cons hlf]
    exact decodeText_crlf _ _

end Sys2Proof.Machine
end

section
/-! PROOFS. The family of 43_decompressor.md: a pointer's registers and outcomes (O9, O10), a literal (O13), the bounds
of EXPAND's output (O50), a window without leads (O51); and the accepting step (O32). -/

namespace Sys2Proof.Machine

variable {s : State}

/-! ### A pointer's registers and outcomes (R152 to R155) -/

/-- The decompressor registers of a mapped pointer before its outcome: fields and source range (R152). -/
def ptrRegisters (len5 : BitVec 5) (jv : JumpIndex) (jump : Nat) (s : State) : Expander :=
  (ptrRange jump (ptrFields len5 jv s)).expander

/-- The source range of a mapped pointer leaves the full buffer (R61). -/
def PtrOutOfBounds (len5 : BitVec 5) (jv : JumpIndex) (jump : Nat) (s : State) : Prop :=
  (ptrRegisters len5 jv jump s).start < 0 ∨ (s.fb.size : Int) ≤ (ptrRegisters len5 jv jump s).stop

theorem rangeOutOfBounds_iff {start stop : Int} {n : Nat} :
    rangeOutOfBounds start stop n = true ↔ start < 0 ∨ (n : Int) ≤ stop := by
  simp [rangeOutOfBounds]

/-- A mapped pointer out of bounds is copied through and logged; one in bounds emits its source range. -/
theorem ptrEffect_mapped_cases {jv : JumpIndex} {jump : Nat} (hj : jumpLookup s.tables.jtInv jv = some jump)
    (len5 : BitVec 5) :
    (PtrOutOfBounds len5 jv jump s
        ∧ ptrEffect len5 jv s = (s.emit (pointerBytes len5 jv)).setExpander
            { ptrRegisters len5 jv jump s with
              i := s.expander.i + 3, ptLog := s.expander.ptLog ++ [s.expander.i] })
      ∨ (¬ PtrOutOfBounds len5 jv jump s
        ∧ ptrEffect len5 jv s = (s.emit (memRead s.fb (ptrRegisters len5 jv jump s).start.toNat
            (pointerLength len5))).setExpander { ptrRegisters len5 jv jump s with i := s.expander.i + 3 }) := by
  rw [ptrEffect_of_mapped hj, ptrOutcome]
  split
  · next ho => exact .inl ⟨rangeOutOfBounds_iff.mp ho, rfl⟩
  · next ho => exact .inr ⟨mt rangeOutOfBounds_iff.mpr ho, rfl⟩

/-- Whatever its outcome, a pointer's fields are in the registers. -/
theorem ptrEffect_fields (len5 : BitVec 5) (jv : JumpIndex) (s : State) :
    (ptrEffect len5 jv s).expander.b0 = pointerByte0 len5
      ∧ (ptrEffect len5 jv s).expander.b1 = pointerByte1 len5 jv
      ∧ (ptrEffect len5 jv s).expander.b2 = pointerByte2 jv
      ∧ (ptrEffect len5 jv s).expander.len = pointerLength len5
      ∧ (ptrEffect len5 jv s).expander.jv = jv := by
  cases hj : jumpLookup s.tables.jtInv jv with
  | none => rw [ptrEffect_unmapped hj]; exact ⟨rfl, rfl, rfl, rfl, rfl⟩
  | some jump =>
    obtain ⟨-, he⟩ | ⟨-, he⟩ := ptrEffect_mapped_cases hj len5 <;> rw [he] <;> exact ⟨rfl, rfl, rfl, rfl, rfl⟩

/-- Settles O9: the fields are read back from the pointer's bytes, and only the pass-through lengthens PT_LOG. -/
theorem ptrFieldsAndRange : Obligations.PtrFieldsAndRange := by
  intro s len5 jv
  obtain ⟨h0, h1, h2, hlen, hjv⟩ := ptrEffect_fields len5 jv s
  obtain ⟨hlength, -, -, -, -, -, hindex⟩ :=
    pointerFieldsOfBytes.1 (pointerByte0 len5) (pointerByte1 len5 jv) (pointerByte2 jv)
  rw [pointerLen5_pointerByte] at hlength
  rw [pointerJv_pointerByte] at hindex
  refine ⟨ptrEffect len5 jv s, rfl, ?_⟩
  rw [h0, h1, h2, hlen, hjv]
  refine ⟨rfl, hlength, hindex, fun jump hj => ?_⟩
  obtain ⟨ho, he⟩ | ⟨ho, he⟩ := ptrEffect_mapped_cases hj len5 <;> rw [he] <;> refine ⟨rfl, rfl, rfl, ?_⟩
  · exact iff_of_true (by simp) ho
  · exact iff_of_false (fun h => h rfl) ho

/-- Settles O10: the source range is in bounds, so the outcome is the copy, each byte of it an existing one of FB. -/
theorem ptrExpandsFromFullBuffer : Obligations.PtrExpandsFromFullBuffer := by
  intro s len5 jv jump start hj hstart hsize
  have hs : (ptrRegisters len5 jv jump s).start = start := hstart.symm
  have hstop : (ptrRegisters len5 jv jump s).stop = start + (pointerLength len5 : Int) - 1 := hs ▸ rfl
  obtain ⟨ho, -⟩ | ⟨-, hcopy⟩ := ptrEffect_mapped_cases hj len5
  · rw [PtrOutOfBounds, hs, hstop] at ho
    omega
  · rw [hs, Int.toNat_natCast] at hcopy
    refine ⟨_, congrArg Host.Outcome.next hcopy, rfl, fun n hn => ?_, by simp, rfl, rfl, .refl s⟩
    have hexists : start + n < s.fb.size := by omega
    simp [List.getElem?_append_right, memRead_getElem? _ _ _ _ hn, memRead?, hexists]

/-- Settles O13: LIT is an Emit of its byte and a write of i and b0. -/
theorem litCopiesByte : Obligations.LitCopiesByte := fun s b0 =>
  ⟨litEffect b0 s, rfl, rfl, rfl, rfl, .refl s⟩

/-! ### The length of EXPAND's output (R159) -/

/-- R159's bounds on what a stretch of the window may become: at least its own length, at most 35 bytes for every 3,
and of its own length only if it is unchanged. -/
def IsExpansion (w out : Bytes) : Prop :=
  w.length ≤ out.length ∧ out.length ≤ 35 * (w.length / 3) + w.length % 3 ∧ (out.length = w.length → out = w)

theorem IsExpansion.refl (w : Bytes) : IsExpansion w w := ⟨le_rfl, by omega, fun _ => rfl⟩

theorem IsExpansion.append {w w' out out' : Bytes} (h : IsExpansion w out) (h' : IsExpansion w' out') :
    IsExpansion (w ++ w') (out ++ out') := by
  obtain ⟨hlo, hhi, heq⟩ := h
  obtain ⟨hlo', hhi', heq'⟩ := h'
  simp only [IsExpansion, List.length_append]
  refine ⟨by omega, by omega, fun hl => ?_⟩
  rw [heq (by omega), heq' (by omega)]

/-- The source range of a pointer is an expansion of its three bytes: it is longer. -/
theorem IsExpansion.memRead {w : Bytes} (hw : w.length = 3) (m : Memory) (a : Nat) (len5 : BitVec 5) :
    IsExpansion w (memRead m a (pointerLength len5)) := by
  have hlen : len5.toNat < 32 := len5.isLt
  rw [IsExpansion, memRead_length, hw, pointerLength]
  refine ⟨?_, ?_, fun h => ?_⟩ <;> omega

/-- An element of the compressed stream raises UnmappedJump, or emits an expansion of its bytes and moves past them. -/
theorem effect_expands {bytes : Bytes} {i : Instr} (hd : decodeCompressed bytes = .ok i) (s : State) :
    (∃ u : State, u.request = s.request ∧ effect i s = u.raise .unmappedJump s.expander.i)
      ∨ ∃ bs e, effect i s = (s.emit bs).setExpander e ∧ e.i = s.expander.i + i.width
          ∧ IsExpansion (bytes.take i.width) bs := by
  obtain ⟨-, hhead⟩ := decodeCompressed_head hd
  have hwidth := decodeCompressed_width_le hd
  obtain ⟨b0, b1, b2, rest, -, -, rfl⟩ | ⟨b0, rest, -, -, rfl⟩ := decodeCompressed_cases hd
  · cases hj : jumpLookup s.tables.jtInv (pointerJv b1 b2) with
    | none => exact .inl ⟨ptrFields _ _ s, rfl, ptrEffect_unmapped hj _⟩
    | some jump =>
      right
      obtain ⟨-, he⟩ | ⟨-, he⟩ := ptrEffect_mapped_cases hj (pointerLen5 b0 b1)
      · exact ⟨_, _, he, rfl, StreamWords.compressed.inj hhead ▸ .refl _⟩
      · exact ⟨_, _, he, rfl, .memRead (List.length_take_of_le hwidth) _ _ _⟩
  · exact .inr ⟨_, _, litEffect_eq b0 s, rfl, StreamWords.compressed.inj hhead ▸ .refl _⟩

/-- A scan that ends with an output has appended an expansion of what was left of its window. -/
theorem isExpansion_of_runFor (n : Nat) {out : Bytes} {log : List Nat} (hp : s.phase = .expand) (hr : s.request = none)
    (hidle : (runFor n s).phase = .idle) (hresp : (runFor n s).response = some (.ok (.expanded out log))) :
    ∃ rest, out = s.out ++ rest ∧ IsExpansion (s.w.drop s.expander.i) rest := by
  induction n generalizing s with
  | zero => exact absurd (hp.symm.trans hidle) (by decide)
  | succ n ih =>
    simp only [runFor, advance_eq_stepTo] at hidle hresp
    cases hd : decodeCompressed (s.w.drop s.expander.i) with
    | error r =>
      rw [stepTo_of_command (fetch_expand_end hp hd), runFor_idle (s := finishExpand s) rfl hr] at hresp
      cases hresp
      exact ⟨[], by simp, by rw [decodeCompressed_error hd]; exact .refl []⟩
    | ok i =>
      rw [stepTo_of_element (fetch_expand_element hp hd)] at hidle hresp
      obtain ⟨u, hu, he⟩ | ⟨bs, e, he, hi, hbs⟩ := effect_expands hd s <;> rw [he] at hidle hresp
      · rw [runFor_idle (s := u.raise _ _) rfl (hu.trans hr)] at hresp
        cases hresp
      · obtain ⟨rest, rfl, hrest⟩ := ih (s := (s.emit bs).setExpander e) hp hr hidle hresp
        refine ⟨bs ++ rest, List.append_assoc _ _ _, ?_⟩
        rw [← List.take_append_drop i.width (s.w.drop s.expander.i), List.drop_drop, ← hi]
        exact hbs.append hrest

/-- Settles O50: the engine just started scans the whole window with an empty OUT. -/
theorem expandOutputLength : Obligations.ExpandOutputLength := by
  intro s fb w out ws log hp h
  obtain ⟨n, hidle, -, hresp⟩ := h.run_accept hp
  obtain ⟨rest, rfl, hrest⟩ :=
    isExpansion_of_runFor (s := accept (.expand fb w ws) (s.submit _)) n rfl rfl hidle hresp
  exact hrest

/-! ### A window without leads (R151, R159) -/

theorem decodeCompressed_eq_lit {b0 : Byte} (h : isPtrLead b0 = false) (rest : Bytes) :
    decodeCompressed (b0 :: rest) = .ok (.lit b0) := by
  have hd : decodePtrLit b0 rest = .lit b0 := by
    unfold decodePtrLit
    split
    · exact if_neg (by simp [h])
    · rfl
  rw [decodeCompressed, hd]

/-- A scan of bytes that are no leads delivers them unchanged, after what OUT holds, and logs nothing. -/
theorem delivers_of_no_lead {bytes : Bytes} (hlead : ∀ x ∈ bytes, isPtrLead x = false) :
    ∀ s : State, s.phase = .expand → s.request = none → s.w.drop s.expander.i = bytes →
      Delivers s (.ok (.expanded (s.out ++ bytes) s.expander.ptLog)) := by
  induction bytes with
  | nil =>
    intro s hp hr hw
    refine .of_stepTo ?_
    rw [stepTo_of_command (fetch_expand_end (r := .endOfStream) hp (by rw [hw]; rfl)), List.append_nil]
    exact .respond hr _
  | cons x rest ih =>
    intro s hp hr hw
    obtain ⟨hx, hrest⟩ := List.forall_mem_cons.mp hlead
    refine .of_stepTo ?_
    rw [stepTo_of_element (fetch_expand_element hp (hw ▸ decodeCompressed_eq_lit hx rest)), List.append_cons]
    refine ih hrest (litEffect x s) hp hr ?_
    change s.w.drop (s.expander.i + 1) = rest
    rw [← List.drop_drop, hw, List.drop_one, List.tail_cons]

/-- Settles O51: the engine just started scans the whole window with an empty OUT and PT_LOG. -/
theorem plainWindowIsUnchanged : Obligations.PlainWindowIsUnchanged := by
  intro s fb w ws hp hw
  have hlead : ∀ x ∈ w, isPtrLead x = false := fun x hx =>
    Bool.eq_false_iff.mpr fun h => by
      have hnot := hw x hx
      have hin := isPtrLead_iff.mp h
      omega
  exact .of_accept hp (delivers_of_no_lead hlead (accept (.expand fb w ws) (s.submit _)) rfl rfl rfl)

/-! ### The accepting step (R42, R150) -/

/-- A byte of a loaded buffer reads as the byte of the sequence, and none exists past its end (R52). -/
theorem memRead?_memOfBytes (fb : Bytes) (a : Nat) : memRead? (memOfBytes fb) a = fb[a]? := by
  rw [memRead?, memOfBytes_size, memByte_memOfBytes]
  split
  · next h => simp [h]
  · next h => exact (List.getElem?_eq_none (by omega)).symm

theorem step_of_idle_request {c : Command} (hp : s.phase = .idle) (hr : s.request = some c) :
    step s = .next (accept c s) := by
  rw [step_eq_stepTo, stepTo_of_command (fetch_idle hp), idleStep, hr]

/-- Settles O32: the step accepts the command, which writes what each command's row lists. -/
theorem idleBlockAcceptsRequest : Obligations.IdleBlockAcceptsRequest := by
  intro s c hp hr
  refine ⟨accept c s, step_of_idle_request hp hr, ?_⟩
  cases c with
  | expand fb w ws => exact ⟨rfl, rfl, rfl, rfl, rfl, rfl, rfl, rfl, rfl, memRead?_memOfBytes fb⟩
  | decodeNext b pos v => exact ⟨rfl, rfl, rfl, rfl, rfl, rfl, rfl⟩
  | decodeWord b v => exact ⟨rfl, rfl, rfl, rfl, rfl, rfl, rfl, rfl⟩
  | encode src v maxLen => exact ⟨rfl, rfl, rfl, rfl, rfl, rfl, rfl, rfl, rfl⟩
  | split b delim => exact ⟨rfl, rfl, rfl, rfl, rfl, rfl, by cases delim <;> rfl⟩
  | compress b maxLen => exact ⟨rfl, rfl, rfl, rfl, rfl, rfl, rfl, rfl⟩

end Sys2Proof.Machine
end

section
/-! PROOFS. The family of 44_word_split.md: SPLIT delivers the library's `List.splitOn` of its input at the delimiter
(O53). -/

namespace Sys2Proof.Machine

variable {s : State} {d x : Byte} {word : Bytes} {init : List Bytes}

/-! ### The splitting of a byte sequence -/

theorem length_splitOn (d : Byte) (b : Bytes) : (b.splitOn d).length = b.count d + 1 := by
  induction b with
  | nil => simp
  | cons x rest ih =>
    rw [List.splitOn_cons_eq_if_modifyHead, List.count_cons]
    split <;> simp [ih]

theorem notMem_of_mem_splitOn {b : Bytes} (h : word ∈ b.splitOn d) : d ∉ word := by
  induction b generalizing word with
  | nil => simp_all
  | cons x rest ih =>
    obtain ⟨first, others, hsplit⟩ := List.exists_cons_of_ne_nil (List.splitOn_ne_nil d rest)
    have hfirst : d ∉ first := ih (hsplit ▸ List.mem_cons_self)
    have hothers : ∀ w ∈ others, d ∉ w := fun w hw => ih (hsplit ▸ List.mem_cons_of_mem _ hw)
    rw [List.splitOn_cons_eq_if_modifyHead, hsplit] at h
    by_cases hx : x = d
    · obtain rfl | rfl | hw : word = [] ∨ word = first ∨ word ∈ others := by simpa [hx] using h
      · exact List.not_mem_nil
      · exact hfirst
      · exact hothers word hw
    · obtain rfl | hw : word = x :: first ∨ word ∈ others := by simpa [hx] using h
      · simp [hfirst, Ne.symm hx]
      · exact hothers word hw

/-! ### The turns of SPLIT (R180) -/

theorem appendLast_append_singleton (x : Byte) (init : List Bytes) (word : Bytes) :
    appendLast x (init ++ [word]) = init ++ [word ++ [x]] := by
  induction init with
  | nil => rfl
  | cons first others ih =>
    rw [List.cons_append, appendLast, ih, List.cons_append]
    exact fun h => List.cons_ne_nil _ _ (List.append_eq_nil_iff.mp h).2

theorem splitByte_words_of_eq (hx : x = s.splitter.delim) :
    (splitByte x s).splitter.words = s.splitter.words ++ [[]] := by simp [splitByte, hx]

theorem splitByte_words_of_ne (hx : x ≠ s.splitter.delim) (hw : s.splitter.words = init ++ [word]) :
    (splitByte x s).splitter.words = init ++ [word ++ [x]] := by
  simp [splitByte, hx, hw, appendLast_append_singleton]

theorem stepTo_split_byte (hp : s.phase = .split) (hx : s.b[s.splitter.p]? = some x) : stepTo s = splitByte x s := by
  rw [stepTo_of_command (fetch_split hp), splitStep, hx]

/-- A scan of the bytes left delivers the closed Words, then the splitting of the open Word with those bytes after it. -/
theorem delivers_split (rest : Bytes) : ∀ (s : State) (init : List Bytes) (word : Bytes), s.phase = .split →
    s.request = none → s.splitter.delim = d → s.b.drop s.splitter.p = rest → s.splitter.words = init ++ [word] →
    d ∉ word → Delivers s (.ok (.splitWords (init ++ (word ++ rest).splitOn d))) := by
  induction rest with
  | nil =>
    intro s init word hp hr _ hb hw hword
    refine .of_stepTo ?_
    rw [stepTo_of_command (fetch_split hp), splitStep_end (List.drop_eq_nil_iff.mp hb), List.append_nil,
      List.splitOn_eq_singleton hword, ← hw]
    exact .respond hr _
  | cons x rest ih =>
    intro s init word hp hr hd hb hw hword
    have hx : s.b[s.splitter.p]? = some x := by rw [← List.head?_drop, hb, List.head?_cons]
    have hrest : s.b.drop (s.splitter.p + 1) = rest := by rw [← List.tail_drop, hb, List.tail_cons]
    refine .of_stepTo ?_
    rw [stepTo_split_byte hp hx]
    by_cases hxd : x = d
    · subst hxd
      rw [List.splitOn_append_cons_self_of_not_mem hword, List.append_cons]
      exact ih (splitByte x s) _ [] hp hr hd hrest (by rw [splitByte_words_of_eq hd.symm, hw]) List.not_mem_nil
    · rw [List.append_cons word]
      exact ih (splitByte x s) _ _ hp hr hd hrest (splitByte_words_of_ne (hd ▸ hxd) hw)
        (by simp [hword, Ne.symm hxd])

/-- Settles O53: the engine just started has one open Word, the empty one, so it delivers the splitting of the whole
input. -/
theorem splitCountsAndJoins : Obligations.SplitCountsAndJoins := by
  intro s b delim hp
  exact ⟨b.splitOn (delim.getD delimiter),
    .of_accept hp (delivers_split b (accept (.split b delim) (s.submit _)) [] [] rfl rfl rfl rfl rfl List.not_mem_nil),
    length_splitOn _ b, fun _ => notMem_of_mem_splitOn, List.intercalate_splitOn _⟩

end Sys2Proof.Machine
end

section
/-! PROOFS. The family of 45_compressor_companion.md: BestMatch (O57), a turn of COMPRESS (O59), and EXPAND of what
COMPRESS delivers (O58). -/

namespace Sys2Proof.Machine

variable {s : State} {cap l d : Nat} {out cand left : Bytes}

/-! ### Matches (R194) -/

/-- The first l bytes of two sequences are the same: both have the same byte, or none, at each index below l. -/
theorem take_eq_take_iff_getElem? {xs ys : Bytes} : xs.take l = ys.take l ↔ ∀ n, n < l → xs[n]? = ys[n]? := by
  refine ⟨fun h n hn => ?_, fun h => List.ext_getElem? fun n => ?_⟩
  · rw [← List.getElem?_take_of_lt hn, h, List.getElem?_take_of_lt hn]
  · by_cases hn : n < l
    · rw [List.getElem?_take_of_lt hn, List.getElem?_take_of_lt hn, h n hn]
    · rw [List.getElem?_eq_none (by simp; omega), List.getElem?_eq_none (by simp; omega)]

/-- R194's condition byte by byte is the search's: the test on the slices, and the bound of the range it searches. -/
theorem matchAt_iff : MatchAt cap out cand l d ↔ isMatch out cand l d = true ∧ d < cap := by
  simp only [MatchAt, isMatch, Bool.and_eq_true, decide_eq_true_eq, beq_iff_eq, take_eq_take_iff_getElem?,
    List.getElem?_drop, le_min_iff]
  tauto

theorem MatchAt.four_le (h : MatchAt cap out cand l d) : 4 ≤ l := h.1

theorem MatchAt.length_le (h : MatchAt cap out cand l d) : l ≤ min 35 cand.length := h.2.1

theorem MatchAt.take_drop (h : MatchAt cap out cand l d) : (out.drop (out.length - d)).take l = cand.take l := by
  obtain ⟨-, -, -, -, -, hbytes⟩ := h
  simpa only [take_eq_take_iff_getElem?, List.getElem?_drop] using hbytes

/-! ### The search: the greatest length, and of that the least distance (R196) -/

theorem bestDistance_eq_some_iff :
    bestDistance cap out cand l = some d ↔
      MatchAt cap out cand l d ∧ ∀ d', MatchAt cap out cand l d' → d ≤ d' := by
  simp only [bestDistance, List.find?_range_eq_some, List.mem_range, matchAt_iff, Bool.not_eq_true']
  constructor
  · rintro ⟨hm, hd, hleast⟩
    refine ⟨⟨hm, hd⟩, fun d' ⟨hm', _⟩ => not_lt.mp fun hlt => ?_⟩
    exact absurd hm' (by simp [hleast d' hlt])
  · rintro ⟨⟨hm, hd⟩, hleast⟩
    refine ⟨hm, hd, fun d' hlt => Bool.eq_false_iff.mpr fun hm' => ?_⟩
    exact absurd (hleast d' ⟨hm', hlt.trans hd⟩) (not_le.mpr hlt)

theorem bestDistance_eq_none_iff : bestDistance cap out cand l = none ↔ ∀ d, ¬ MatchAt cap out cand l d := by
  simp only [bestDistance, List.find?_range_eq_none, matchAt_iff, Bool.not_eq_true']
  exact ⟨fun h d ⟨hm, hd⟩ => absurd hm (by simp [h d hd]), fun h d hd => Bool.eq_false_iff.mpr fun hm => h d ⟨hm, hd⟩⟩

/-- Among the matches of length at most n the search gives the longest and of those the nearest, or there are none. -/
theorem bestMatchFrom_spec (cap : Nat) (out cand : Bytes) (n : Nat) :
    (∃ l d, bestMatchFrom cap out cand n = some (l, d) ∧ MatchAt cap out cand l d
        ∧ ∀ l' d', l' ≤ n → MatchAt cap out cand l' d' → l' ≤ l ∧ (l' = l → d ≤ d'))
      ∨ (bestMatchFrom cap out cand n = none ∧ ∀ l' d', l' ≤ n → ¬ MatchAt cap out cand l' d') := by
  induction n with
  | zero =>
    refine .inr ⟨rfl, fun l' d' hl' h => ?_⟩
    exact absurd (h.four_le.trans hl') (by decide)
  | succ n ih =>
    cases hd : bestDistance cap out cand (n + 1) with
    | some d =>
      obtain ⟨hm, hleast⟩ := bestDistance_eq_some_iff.mp hd
      refine .inl ⟨n + 1, d, by rw [bestMatchFrom, hd], hm, fun l' d' hl' h => ⟨hl', ?_⟩⟩
      rintro rfl
      exact hleast d' h
    | none =>
      have hshorter : ∀ l' d', l' ≤ n + 1 → MatchAt cap out cand l' d' → l' ≤ n := by
        intro l' d' hl' h
        have hne : l' ≠ n + 1 := by
          rintro rfl
          exact bestDistance_eq_none_iff.mp hd d' h
        omega
      obtain ⟨l, d, he, hm, hbest⟩ | ⟨he, hnone⟩ := ih
      · exact .inl ⟨l, d, by rw [bestMatchFrom, hd, he], hm, fun l' d' hl' h => hbest l' d' (hshorter l' d' hl' h) h⟩
      · exact .inr ⟨by rw [bestMatchFrom, hd, he], fun l' d' hl' h => hnone l' d' (hshorter l' d' hl' h) h⟩

/-- Settles O57: no match is longer than the length the search starts from. -/
theorem bestMatchIsLongestThenNearest : Obligations.BestMatchIsLongestThenNearest := by
  intro cap out cand
  obtain ⟨l, d, he, hm, hbest⟩ | ⟨he, hnone⟩ := bestMatchFrom_spec cap out cand (min 35 cand.length) <;>
    rw [bestMatch, he]
  · refine ⟨?_, nofun⟩
    rintro _ _ ⟨⟩
    exact ⟨hm, fun l' d' h => hbest l' d' h.length_le h⟩
  · exact ⟨nofun, fun _ l' d' h => hnone l' d' h.length_le h⟩

theorem MatchAt.of_bestMatch (h : bestMatch cap out cand = some (l, d)) : MatchAt cap out cand l d :=
  ((bestMatchIsLongestThenNearest cap out cand).1 l d h).1

/-! ### A turn of COMPRESS (R192) -/

/-- A match's length fits a pointer (R73, R195). -/
theorem MatchAt.pointerLength_eq (h : MatchAt cap out cand l d) : pointerLength (BitVec.ofNat 5 (l - 4)) = l := by
  obtain ⟨hlo, hhi, -⟩ := h
  rw [pointerLength, BitVec.toNat_ofNat]
  omega

/-- A match's distance has a jump index: it is below JT_CAP (R31, R194). -/
theorem MatchAt.exists_jumpIndexOf {jt : JumpForward} (h : MatchAt (jumpCapacity jt) out cand l d) :
    ∃ j, jumpIndexOf jt d = some j := by
  obtain ⟨-, -, -, -, hd, -⟩ := h
  exact ⟨jt[d], List.getElem?_eq_getElem hd⟩

theorem compressElement_eq_literal {x : Byte}
    (h : x = delimiter ∨ bestMatch (jumpCapacity s.tables.jt) s.out (candidate left) = none) :
    compressElement x left s = compressLiteral x s := by
  obtain hx | hnone := h
  · rw [compressElement, if_pos hx]
  · rw [compressElement, hnone, ite_self]

theorem compressElement_eq_pointer {x : Byte} {j : JumpIndex} (hx : x ≠ delimiter)
    (hm : bestMatch (jumpCapacity s.tables.jt) s.out (candidate left) = some (l, d))
    (hj : jumpIndexOf s.tables.jt d = some j) : compressElement x left s = compressPointer l j s := by
  simp only [compressElement, if_neg hx, hm, hj]

theorem stepTo_compress_byte {x : Byte} (hp : s.phase = .compress) (hx : s.b[s.compressor.i]? = some x) :
    stepTo s = compressElement x (s.b.drop s.compressor.i) s := by
  rw [stepTo_of_command (fetch_compress hp), compressStep, hx]

/-- Settles O59: the step is the turn at the byte, which emits it or the pointer of the best match. -/
theorem compressTurnEmitsPointerOrByte : Obligations.CompressTurnEmitsPointerOrByte := by
  intro s x hp hx
  rw [step_eq_stepTo, stepTo_compress_byte hp hx]
  refine ⟨fun h => by rw [compressElement_eq_literal h]; rfl, fun l d hne hm => ?_⟩
  have hmatch := MatchAt.of_bestMatch hm
  obtain ⟨j, hj⟩ := hmatch.exists_jumpIndexOf
  exact ⟨j, hj, hmatch.pointerLength_eq, by rw [compressElement_eq_pointer hne hm hj]; rfl⟩

/-- What a turn can do: emit the byte, or the pointer of a match (R192, R195, R197). -/
theorem compressElement_literal_or_match (x : Byte) (left : Bytes) (s : State) :
    compressElement x left s = compressLiteral x s
      ∨ ∃ l d j, MatchAt (jumpCapacity s.tables.jt) s.out (candidate left) l d ∧ jumpIndexOf s.tables.jt d = some j
          ∧ compressElement x left s = compressPointer l j s := by
  by_cases hx : x = delimiter
  · exact .inl (compressElement_eq_literal (.inl hx))
  · cases hm : bestMatch (jumpCapacity s.tables.jt) s.out (candidate left) with
    | none => exact .inl (compressElement_eq_literal (.inr hm))
    | some best =>
      have hmatch := MatchAt.of_bestMatch hm
      obtain ⟨j, hj⟩ := hmatch.exists_jumpIndexOf
      exact .inr ⟨_, _, j, hmatch, hj, compressElement_eq_pointer hx hm hj⟩

/-! ### The bytes a pointer of COMPRESS stands for (R194, R198) -/

theorem candidate_prefix (left : Bytes) : candidate left <+: left := by
  cases left with
  | nil => exact List.nil_prefix
  | cons x xs =>
    exact List.cons_prefix_cons.mpr ⟨rfl, (List.takeWhile_prefix _).trans (List.take_prefix 34 xs)⟩

/-- A match of the candidate reads, in the output and in all that extends it, as the head of the bytes left. -/
theorem MatchAt.take_drop_append (h : MatchAt cap out (candidate left) l d) (rest : Bytes) :
    ((out ++ rest).drop (out.length - d)).take l = left.take l := by
  have hslice := h.take_drop
  obtain ⟨-, hlen, hld, hd, -⟩ := h
  obtain ⟨tail, htail⟩ := candidate_prefix left
  rw [List.drop_append_of_le_length (by omega), List.take_append_of_le_length (by simp; omega), hslice]
  conv_rhs => rw [← htail, List.take_append_of_le_length (by omega)]

/-- Coherence of the tables, distance by distance (R32). -/
theorem jumpLookup_of_jumpIndexOf {jt : JumpForward} {ji : JumpInverse} {j : JumpIndex}
    (h : jumpCoherent jt ji = true) (hj : jumpIndexOf jt d = some j) : jumpLookup ji j = some d := by
  obtain ⟨hd, -⟩ := List.getElem?_eq_some_iff.mp hj
  simpa [hj] using List.all_eq_true.mp h d (List.mem_range.mpr hd)

/-! ### EXPAND of a stream against itself (R161) -/

/-- EXPAND(x, x, 0), running at index i, delivers the bytes, after what OUT holds, and logs nothing. -/
def ExpandsFrom (ji : JumpInverse) (x : Bytes) (i : Nat) (bytes : Bytes) : Prop :=
  ∀ s : State, s.phase = .expand → s.request = none → s.tables.jtInv = ji → s.fb = memOfBytes x → s.w = x →
    s.expander.ws = 0 → s.expander.i = i → Delivers s (.ok (.expanded (s.out ++ bytes) s.expander.ptLog))

section ExpandsFrom

variable {ji : JumpInverse} {x rest bytes : Bytes} {i : Nat}

theorem ExpandsFrom.nil (h : x.drop i = []) : ExpandsFrom ji x i [] := by
  rintro s hp hr - - rfl - rfl
  refine .of_stepTo ?_
  rw [stepTo_of_command (fetch_expand_end (r := .endOfStream) hp (by rw [h]; rfl)), List.append_nil]
  exact .respond hr _

theorem ExpandsFrom.literal {b0 : Byte} (hb0 : isPtrLead b0 = false) (hx : x.drop i = b0 :: rest)
    (h : ExpandsFrom ji x (i + 1) bytes) : ExpandsFrom ji x i (b0 :: bytes) := by
  rintro s hp hr hji hfb rfl hws rfl
  refine .of_stepTo ?_
  rw [stepTo_of_element (fetch_expand_element hp (hx ▸ decodeCompressed_eq_lit hb0 rest)), List.append_cons]
  exact h (litEffect b0 s) hp hr hji hfb rfl hws rfl

/-- A pointer whose source ends before it expands to its source. -/
theorem ExpandsFrom.pointer {len5 : BitVec 5} {j : JumpIndex} (hx : x.drop i = pointerBytes len5 j ++ rest)
    (hj : jumpLookup ji j = some d) (hld : pointerLength len5 ≤ d) (hd : d ≤ i)
    (h : ExpandsFrom ji x (i + 3) bytes) :
    ExpandsFrom ji x i ((x.drop (i - d)).take (pointerLength len5) ++ bytes) := by
  rintro s hp hr rfl hfb rfl hws rfl
  have hsize : s.expander.i < s.w.length := by
    have hlen := congrArg List.length hx
    simp only [List.length_drop, List.length_append, pointerBytes, List.length_cons] at hlen
    omega
  have hdec : decodeCompressed (s.w.drop s.expander.i) = .ok (.ptr len5 j) :=
    hx ▸ decodeCompressed_pointerBytes len5 j
  have hstart : (ptrRegisters len5 j d s).start = s.expander.i - d := by
    change (s.expander.ws : Int) + s.expander.i - d = _
    omega
  have hstop : (ptrRegisters len5 j d s).stop = s.expander.i - d + pointerLength len5 - 1 := hstart ▸ rfl
  refine .of_stepTo ?_
  rw [stepTo_of_element (fetch_expand_element hp hdec), effect]
  obtain ⟨hout, -⟩ | ⟨-, hcopy⟩ := ptrEffect_mapped_cases hj len5
  · rw [PtrOutOfBounds, hstart, hstop, hfb, memOfBytes_size] at hout
    omega
  · have hread : memRead s.fb (ptrRegisters len5 j d s).start.toNat (pointerLength len5)
        = (s.w.drop (s.expander.i - d)).take (pointerLength len5) := by
      rw [hstart, ← Nat.cast_sub hd, Int.toNat_natCast, hfb]
      exact (memReadIsSlice s.w _ _ (by omega)).2
    rw [hcopy, hread, ← List.append_assoc]
    exact h (State.setExpander _ (s.emit _)) hp hr rfl hfb rfl hws rfl

end ExpandsFrom

/-! ### EXPAND of what COMPRESS delivers (R198) -/

/-- COMPRESS, from the bytes left, delivers what OUT holds and a stream after it which expands to those bytes. -/
def CompressesBack (s : State) (left : Bytes) : Prop :=
  ∃ rest, Delivers s (.ok (.compressed (s.out ++ rest)))
    ∧ ExpandsFrom s.tables.jtInv (s.out ++ rest) s.out.length left

theorem CompressesBack.nil (hp : s.phase = .compress) (hr : s.request = none) (hm : s.compressor.maxLen = none)
    (hb : s.b.drop s.compressor.i = []) : CompressesBack s [] := by
  refine ⟨[], .of_stepTo ?_, .nil (by simp)⟩
  rw [stepTo_of_command (fetch_compress hp), compressStep_end (List.drop_eq_nil_iff.mp hb),
    finishCompress_of_maxLen_none hm, List.append_nil]
  exact .respond hr _

theorem CompressesBack.literal {x : Byte} (hx : isPtrLead x = false) (hs : stepTo s = compressLiteral x s)
    (h : CompressesBack (compressLiteral x s) left) : CompressesBack s (x :: left) := by
  obtain ⟨rest, hdel, hexp⟩ := h
  have hout : (compressLiteral x s).out = s.out ++ [x] := rfl
  rw [hout, ← List.append_cons] at hdel hexp
  rw [List.length_append] at hexp
  exact ⟨x :: rest, .of_stepTo (hs ▸ hdel), hexp.literal hx List.drop_left⟩

theorem CompressesBack.pointer {j : JumpIndex} (hm : MatchAt cap s.out (candidate left) l d)
    (hj : jumpLookup s.tables.jtInv j = some d) (hs : stepTo s = compressPointer l j s)
    (h : CompressesBack (compressPointer l j s) (left.drop l)) : CompressesBack s left := by
  obtain ⟨rest, hdel, hexp⟩ := h
  have hout : (compressPointer l j s).out = s.out ++ pointerBytes (BitVec.ofNat 5 (l - 4)) j := rfl
  rw [hout, List.append_assoc] at hdel hexp
  rw [List.length_append] at hexp
  have hsource := hm.take_drop_append (pointerBytes (BitVec.ofNat 5 (l - 4)) j ++ rest)
  have hlen := hm.pointerLength_eq
  obtain ⟨-, -, hld, hd, -⟩ := hm
  refine ⟨_, .of_stepTo (hs ▸ hdel), ?_⟩
  have hback := hexp.pointer List.drop_left hj (hlen.trans_le hld) hd
  rwa [hlen, hsource, List.take_append_drop] at hback

/-- By recursion on the bytes left: each turn emits one element, which expands to the bytes it took. -/
theorem compressesBack (left : Bytes) (hlead : ∀ x ∈ left, isPtrLead x = false) (s : State) (hp : s.phase = .compress)
    (hr : s.request = none) (hm : s.compressor.maxLen = none) (hc : jumpCoherent s.tables.jt s.tables.jtInv = true)
    (hb : s.b.drop s.compressor.i = left) : CompressesBack s left := by
  match left with
  | [] => exact .nil hp hr hm hb
  | x :: tail =>
    have hx : s.b[s.compressor.i]? = some x := by rw [← List.head?_drop, hb, List.head?_cons]
    have hs := stepTo_compress_byte hp hx
    obtain ⟨hxlead, htail⟩ := List.forall_mem_cons.mp hlead
    rw [hb] at hs
    obtain he | ⟨l, d, j, hmatch, hj, he⟩ := compressElement_literal_or_match x (x :: tail) s
    · refine .literal hxlead (hs.trans he) (compressesBack tail htail _ hp hr hm hc ?_)
      change s.b.drop (s.compressor.i + 1) = tail
      rw [← List.tail_drop, hb, List.tail_cons]
    · have hl := hmatch.four_le
      refine .pointer hmatch (jumpLookup_of_jumpIndexOf hc hj) (hs.trans he)
        (compressesBack _ (fun y hy => hlead y (List.mem_of_mem_drop hy)) _ hp hr hm hc ?_)
      change s.b.drop (s.compressor.i + l) = _
      rw [← List.drop_drop, hb]
termination_by left.length
decreasing_by
  · simp
  · rw [List.length_drop, List.length_cons]
    omega

theorem isPtrLead_eq_false {x : Byte} (h : x.toNat < 0xF0 ∨ 0xF3 < x.toNat) : isPtrLead x = false := by
  rw [Bool.eq_false_iff, Ne, isPtrLead_iff]
  omega

/-- Settles O58: COMPRESS just started has the whole input left and OUT empty, and EXPAND just started is at index 0. -/
theorem compressedInputExpandsBack : Obligations.CompressedInputExpandsBack := by
  intro s b hp htables hb
  have hcoherent : jumpCoherent s.tables.jt s.tables.jtInv = true := (Bool.and_eq_true_iff.mp htables).2
  have hlead : ∀ x ∈ b, isPtrLead x = false := fun x hx => isPtrLead_eq_false (hb x hx)
  obtain ⟨x, hdel, hexp⟩ :=
    compressesBack b hlead (accept (.compress b none) (s.submit _)) rfl rfl rfl hcoherent rfl
  exact ⟨x, .of_accept hp hdel, .of_accept hp (hexp (accept (.expand x x 0) (s.submit _)) rfl rfl rfl rfl rfl rfl rfl)⟩

end Sys2Proof.Machine
end

section
/-! PROOFS. The family of 60_exceptions.md: every command is answered, in time and as R211 lists (O47, O49), and the
answer of DECODE_NEXT at an element (O19). -/

namespace Sys2Proof.Machine

variable {s : State} {c : Command} {n : Nat} {r : Response}

/-! ### A running command and its turns -/

/-- The block is idle with the response r, and no request waits (R210, R212). -/
def Answered (r : Response) (t : State) : Prop := t.phase = .idle ∧ t.request = none ∧ t.response = some r

theorem Answered.respond (h : s.request = none) (r : Response) : Answered r (s.respond r) := ⟨rfl, h, rfl⟩

theorem Answered.raise (h : s.request = none) (e : Status) (info : Nat) : Answered (.err e info) (s.raise e info) :=
  .respond h _

theorem Completes.of_answered (h : Answered r (runFor n (s.submit c))) : Completes c s r := ⟨n, h⟩

/-- The engine of c runs on the operands of c, its scan index at n. -/
def Running : Command → Nat → State → Prop
  | .expand _ w _, n, s => s.phase = .expand ∧ s.request = none ∧ s.w = w ∧ s.expander.i = n
  | .decodeNext b pos _, n, s =>
    s.phase = .decodeNext ∧ s.request = none ∧ s.b = b ∧ s.decoder.pos = n ∧ n = pos
  | .decodeWord b _, n, s => s.phase = .decodeWord ∧ s.request = none ∧ s.b = b ∧ s.decoder.pos = n
  | .encode src _ maxLen, n, s =>
    s.phase = .encode ∧ s.request = none ∧ s.src = src ∧ s.encoder.maxLen = maxLen ∧ s.encoder.k = n
  | .split b _, n, s => s.phase = .split ∧ s.request = none ∧ s.b = b ∧ s.splitter.p = n
  | .compress b maxLen, n, s =>
    s.phase = .compress ∧ s.request = none ∧ s.b = b ∧ s.compressor.maxLen = maxLen ∧ s.compressor.i = n

/-- The index at which a command's scan starts: the operand pos of DECODE_NEXT, else 0 (R42). -/
def startIndex : Command → Nat
  | .decodeNext _ pos _ => pos
  | _ => 0

theorem running_accept (c : Command) (s : State) : Running c (startIndex c) (accept c s) := by
  cases c with
  | expand _ _ _ | decodeWord _ _ | split _ _ => exact ⟨rfl, rfl, rfl, rfl⟩
  | decodeNext _ _ _ | encode _ _ _ | compress _ _ => exact ⟨rfl, rfl, rfl, rfl, rfl⟩

/-- After a turn of c at index n the engine runs on, further within its input, or has answered as c may. -/
inductive TurnEnds (c : Command) (n : Nat) (t : State) : Prop
  | goesOn (w : Nat) (hpos : 0 < w) (hle : n + w ≤ inputLength c) (h : Running c (n + w) t)
  | answers (r : Response) (h : Answered r t) (hr : PossibleResponse c r)

/-- Units read from the scan index on lie within the input. -/
theorem add_le_of_le_length_drop {α : Type} {xs : List α} {w : Nat} (hpos : 0 < w) (hw : w ≤ (xs.drop n).length) :
    n + w ≤ xs.length := by
  rw [List.length_drop] at hw
  omega

/-! ### EXPAND -/

theorem Running.turn_expand {fb w : Bytes} {ws : Nat} (h : Running (.expand fb w ws) n s) :
    TurnEnds (.expand fb w ws) n (stepTo s) := by
  obtain ⟨hp, hr, rfl, rfl⟩ := h
  cases hd : decodeCompressed (s.w.drop s.expander.i) with
  | error e =>
    rw [stepTo_of_command (fetch_expand_end hp hd)]
    exact .answers _ (.respond hr _) (.inl ⟨_, _, rfl⟩)
  | ok i =>
    rw [stepTo_of_element (fetch_expand_element hp hd)]
    have hwidth := instr_width_pos i
    have hle := add_le_of_le_length_drop hwidth (decodeCompressed_width_le hd)
    obtain ⟨u, hu, he⟩ | ⟨bs, e, he, hi, -⟩ := effect_expands hd s <;> rw [he]
    · exact .answers _ (.raise (hu.trans hr) _ _) (.inr ⟨_, by omega, rfl⟩)
    · exact .goesOn i.width hwidth hle ⟨hp, hr, rfl, hi⟩

/-! ### DECODE_NEXT and DECODE_WORD -/

/-- Only a CODE2 lead at the end of the input is read as an element without a Code (R102). -/
theorem length_eq_one_of_truncated {bytes : Bytes} {i : Instr} (hd : decodeCode bytes = .ok i)
    (hc : elementCode i = none) : bytes.length = 1 := by
  obtain ⟨b0, rest, rfl, hrow | ⟨-, -, b1, b2, rest', -, rfl⟩ | ⟨-, -, rfl⟩⟩ := decodeCode_cases hd
  · cases rest with
    | nil => rfl
    | cons b1 rest => cases (elementCode_of_code2Row hrow).symm.trans hc
  · cases hc
  · cases hc

/-- A truncated element is at the last index of the input, and ends the command with TruncatedCode of it. -/
theorem answered_of_truncated {i : Instr} (hr : s.request = none) (hd : decodeCode (s.b.drop s.decoder.pos) = .ok i)
    (hc : elementCode i = none) :
    s.decoder.pos + 1 = s.b.length ∧ Answered (.err .truncatedCode s.decoder.pos) (effect i s) := by
  have hlen := length_eq_one_of_truncated hd hc
  rw [List.length_drop] at hlen
  refine ⟨by omega, ?_⟩
  obtain ⟨code, hcode⟩ | ⟨-, lead, hl⟩ := decodeCode_elementCode hd
  · cases hcode.symm.trans hc
  · rw [hl]
    exact .raise (s := s.setDecoder _) hr _ _

/-- In DECODE_NEXT an assembled Code's Token and the index just after it are the response (R105). -/
theorem effect_decodeNext {i : Instr} {code : Code} (hp : s.phase = .decodeNext) (hc : elementCode i = some code) :
    ∃ b0, effect i s = (codeRegisters b0 code i.width s).respond
      (.ok (.decodedNext (lookupToken (s.tables.cm s.decoder.v) code i.width) (s.decoder.pos + i.width))) := by
  obtain ⟨b0, he⟩ := effect_of_elementCode hc
  exact ⟨b0, (he s).trans (codeEffect_decodeNext hp _ _ _)⟩

theorem Running.turn_decodeNext {b : Bytes} {pos : Nat} {v : Variant} (h : Running (.decodeNext b pos v) n s) :
    TurnEnds (.decodeNext b pos v) n (stepTo s) := by
  obtain ⟨hp, hr, rfl, rfl, rfl⟩ := h
  cases hd : decodeCode (s.b.drop s.decoder.pos) with
  | error e =>
    rw [stepTo_of_command (fetch_decodeNext_end hp hd)]
    have hend := List.drop_eq_nil_iff.mp (decodeCode_error hd)
    exact .answers _ (.raise hr _ _) (.inr (.inr ⟨hend, rfl⟩))
  | ok i =>
    rw [stepTo_of_element (fetch_decodeNext_element hp hd)]
    cases hc : elementCode i with
    | none =>
      obtain ⟨hlast, hans⟩ := answered_of_truncated hr hd hc
      exact .answers _ hans (.inr (.inl ⟨hlast, rfl⟩))
    | some code =>
      obtain ⟨b0, he⟩ := effect_decodeNext hp hc
      rw [he]
      exact .answers _ (.respond (s := codeRegisters b0 code i.width s) hr _) (.inl ⟨_, _, rfl⟩)

theorem Running.turn_decodeWord {b : Bytes} {v : Variant} (h : Running (.decodeWord b v) n s) :
    TurnEnds (.decodeWord b v) n (stepTo s) := by
  obtain ⟨hp, hr, rfl, rfl⟩ := h
  cases hd : decodeCode (s.b.drop s.decoder.pos) with
  | error e =>
    rw [stepTo_of_command (fetch_decodeWord_end hp hd)]
    exact .answers _ (.respond hr _) (.inl ⟨_, rfl⟩)
  | ok i =>
    cases hc : elementCode i with
    | none =>
      rw [stepTo_of_element (fetch_decodeWord_element hp hd)]
      obtain ⟨hlast, hans⟩ := answered_of_truncated hr hd hc
      exact .answers _ hans (.inr ⟨_, hlast, rfl⟩)
    | some code =>
      obtain ⟨b0, he⟩ := stepTo_decodeWord_element hp hd hc
      have hwidth := instr_width_pos i
      rw [he]
      exact .goesOn i.width hwidth (add_le_of_le_length_drop hwidth (decodeCode_width_le hd)) ⟨hp, hr, rfl, rfl⟩

/-! ### ENCODE -/

theorem Running.turn_encode {src : Text} {v : Variant} {maxLen : Option Nat}
    (h : Running (.encode src v maxLen) n s) : TurnEnds (.encode src v maxLen) n (stepTo s) := by
  obtain ⟨hp, hr, rfl, rfl, rfl⟩ := h
  cases hd : decodeText (isTokenOf (s.tables.ri s.encoder.v)) (s.src.drop s.encoder.k) with
  | error e =>
    obtain ⟨-, rfl⟩ | ⟨rest, hsrc, -, rfl⟩ := decodeText_error hd
    · rw [stepTo_of_command (fetch_encode_end hp hd), finishEncode]
      obtain ⟨m, hm, hlt, he⟩ | ⟨hfits, he⟩ := checkCapacity_cases s.encoder.maxLen (.encoded s.out) s <;> rw [he]
      · exact .answers _ (.raise hr _ _) (.inr (.inr ⟨m, _, hm, hlt, rfl⟩))
      · exact .answers _ (.respond hr _) (.inl ⟨_, hfits, rfl⟩)
    · rw [stepTo_of_command (fetch_encode_unclosed hp hd)]
      have hk : s.encoder.k < s.src.length := add_le_of_le_length_drop Nat.one_pos (by simp [hsrc])
      exact .answers _ (.raise hr _ _) (.inr (.inl ⟨_, hk, rfl⟩))
  | ok i =>
    have hwidth := instr_width_pos i
    have hle := add_le_of_le_length_drop hwidth (decodeText_width_le hd)
    obtain ⟨-, -, -, -, hsrc, hreq⟩ := withCloseIndex_sameInputs i s
    obtain ⟨hphase, -⟩ := withCloseIndex_sameCommand i s
    cases hc : elementValue (s.tables.ri s.encoder.v) i with
    | none =>
      rw [stepTo_of_element (fetch_encode_element hp hd),
        effect_of_elementValue_eq_none (decodeText_isTextElement hd) hc]
      exact .answers _ (.raise (hreq.trans hr) _ _) (.inr (.inl ⟨_, by omega, rfl⟩))
    | some val =>
      rw [stepTo_encode_element hp hd hc]
      exact .goesOn i.width hwidth hle ⟨hphase.trans hp, hreq.trans hr, hsrc, withCloseIndex_maxLen i s,
        congrArg (· + i.width) (withCloseIndex_k i s)⟩

/-! ### SPLIT and COMPRESS -/

theorem Running.turn_split {b : Bytes} {delim : Option Byte} (h : Running (.split b delim) n s) :
    TurnEnds (.split b delim) n (stepTo s) := by
  obtain ⟨hp, hr, rfl, rfl⟩ := h
  cases hx : s.b[s.splitter.p]? with
  | none =>
    rw [stepTo_of_command (fetch_split hp), splitStep_end (List.getElem?_eq_none_iff.mp hx)]
    exact .answers _ (.respond hr _) ⟨_, rfl⟩
  | some x =>
    obtain ⟨hlt, -⟩ := List.getElem?_eq_some_iff.mp hx
    rw [stepTo_split_byte hp hx]
    exact .goesOn 1 Nat.one_pos hlt ⟨hp, hr, rfl, rfl⟩

theorem Running.turn_compress {b : Bytes} {maxLen : Option Nat} (h : Running (.compress b maxLen) n s) :
    TurnEnds (.compress b maxLen) n (stepTo s) := by
  obtain ⟨hp, hr, rfl, rfl, rfl⟩ := h
  cases hx : s.b[s.compressor.i]? with
  | none =>
    rw [stepTo_of_command (fetch_compress hp), compressStep_end (List.getElem?_eq_none_iff.mp hx), finishCompress]
    obtain ⟨m, hm, hlt, he⟩ | ⟨hfits, he⟩ := checkCapacity_cases s.compressor.maxLen (.compressed s.out) s <;> rw [he]
    · exact .answers _ (.raise hr _ _) (.inr ⟨m, _, hm, hlt, rfl⟩)
    · exact .answers _ (.respond hr _) (.inl ⟨_, hfits, rfl⟩)
  | some x =>
    obtain ⟨hlt, -⟩ := List.getElem?_eq_some_iff.mp hx
    rw [stepTo_compress_byte hp hx]
    obtain he | ⟨l, d, j, hmatch, -, he⟩ :=
      compressElement_literal_or_match x (s.b.drop s.compressor.i) s <;> rw [he]
    · exact .goesOn 1 Nat.one_pos hlt ⟨hp, hr, rfl, rfl, rfl⟩
    · have hpos : 0 < l := Nat.zero_lt_of_lt hmatch.four_le
      have hlen := (hmatch.length_le.trans (min_le_right _ _)).trans (candidate_length_le _)
      exact .goesOn l hpos (add_le_of_le_length_drop hpos hlen) ⟨hp, hr, rfl, rfl, rfl⟩

/-! ### Whole commands (R211, R249) -/

theorem Running.turn (h : Running c n s) : TurnEnds c n (stepTo s) := by
  cases c with
  | expand fb w ws => exact h.turn_expand
  | decodeNext b pos v => exact h.turn_decodeNext
  | decodeWord b v => exact h.turn_decodeWord
  | encode src v maxLen => exact h.turn_encode
  | split b delim => exact h.turn_split
  | compress b maxLen => exact h.turn_compress

/-- By recursion on the units left: a turn for each at most, and one that ends the scan. -/
theorem Running.answers {n : Nat} {s : State} (h : Running c n s) :
    ∃ k r, k ≤ inputLength c - n + 1 ∧ Answered r (runFor k s) ∧ PossibleResponse c r := by
  obtain ⟨w, hpos, hle, hrun⟩ | ⟨r, hans, hr⟩ := h.turn
  · obtain ⟨k, r, hk, hans, hr⟩ := hrun.answers
    exact ⟨k + 1, r, by omega, by simpa only [runFor, advance_eq_stepTo] using hans, hr⟩
  · exact ⟨1, r, by omega, by simpa only [runFor, advance_eq_stepTo] using hans, hr⟩
termination_by inputLength c - n

/-- A command requested of an idle block is answered in time, as R211 lists: one step accepts it, the others scan. -/
theorem exists_answered (hp : s.phase = .idle) (c : Command) :
    ∃ k r, k ≤ inputLength c + 2 ∧ Answered r (runFor k (s.submit c)) ∧ PossibleResponse c r := by
  obtain ⟨k, r, hk, hans, hr⟩ := (running_accept c (s.submit c)).answers
  exact ⟨k + 1, r, by omega, by simpa only [runFor, advance_eq_stepTo, stepTo_submit hp] using hans, hr⟩

/-- Settles O47: a request is accepted in one step, and each turn but the last takes at least one unit of the input. -/
theorem commandsAlwaysEnd : Obligations.CommandsAlwaysEnd := by
  intro s c hp
  obtain ⟨k, r, hk, hans, -⟩ := exists_answered hp c
  exact ⟨k, r, hk, hans⟩

/-- Settles O49: the command is answered as listed, and it completes with no second response. -/
theorem commandsEndAsListed : Obligations.CommandsEndAsListed := by
  intro s c r hp h
  obtain ⟨k, r', -, hans, hr'⟩ := exists_answered hp c
  rwa [h.unique (.of_answered hans)]

/-! ### DECODE_NEXT at an element (R105) -/

/-- Settles O19: the response is the assembled Code's, and only the decoder's registers are written besides. -/
theorem decodeNextDeliversToken : Obligations.DecodeNextDeliversToken := by
  intro s i code hp hc
  obtain ⟨b0, he⟩ := effect_decodeNext hp hc
  exact ⟨_, (exec_eq_effect i s).trans (congrArg _ he), rfl, rfl, rfl, rfl⟩

end Sys2Proof.Machine
end

section
/-! PROOFS. Every state steps to a next state (O31), and no step writes a table (O41). -/

namespace Sys2Proof.Machine

/-- Settles O31: the step's outcome is `stepTo`, whose element meanings and command steps are all next states. -/
theorem everyStepIsSafe : Obligations.EveryStepIsSafe := fun s => ⟨stepTo s, step_eq_stepTo s⟩

variable {s t : State}

theorem SameInputs.tables_eq (h : SameInputs s t) : t.tables = s.tables := h.1

/-! ### The steps of a command itself -/

@[simp] theorem accept_tables (c : Command) (s : State) : (accept c s).tables = s.tables := by
  cases c with
  | expand fb w ws => exact beginExpand_tables s fb w ws
  | decodeNext b pos v => exact beginDecodeNext_tables s b pos v
  | decodeWord b v => exact beginDecodeWord_tables s b v
  | encode src v maxLen => exact beginEncode_tables s src v maxLen
  | split b delim => exact beginSplit_tables s b delim
  | compress b maxLen => exact beginCompress_tables s b maxLen

@[simp] theorem idleStep_tables (s : State) : (idleStep s).tables = s.tables := by
  unfold idleStep
  split
  · exact accept_tables _ s
  · rfl

@[simp] theorem checkCapacity_tables (maxLen : Option Nat) (r : Result) (s : State) :
    (checkCapacity maxLen r s).tables = s.tables :=
  (checkCapacity_ends maxLen r s).1.tables_eq

@[simp] theorem splitStep_tables (s : State) : (splitStep s).tables = s.tables := by
  unfold splitStep
  split
  · exact State.setSplitter_tables s _
  · exact State.respond_tables s _

@[simp] theorem compressElement_tables (x : Byte) (left : Bytes) (s : State) :
    (compressElement x left s).tables = s.tables := by
  obtain he | ⟨l, j, -, he⟩ := compressElement_cases x left s <;> rw [he]
  · simp [compressLiteral]
  · simp [compressPointer]

@[simp] theorem compressStep_tables (s : State) : (compressStep s).tables = s.tables := by
  unfold compressStep
  split
  · exact compressElement_tables _ _ s
  · exact checkCapacity_tables _ _ s

/-! ### One step, by the running engine -/

theorem stepTo_tables_of_expand (hp : s.phase = .expand) : (stepTo s).tables = s.tables := by
  cases hd : decodeCompressed (s.w.drop s.expander.i) with
  | error r =>
    rw [stepTo_of_command (fetch_expand_end hp hd)]
    exact State.respond_tables s _
  | ok i =>
    rw [stepTo_of_element (fetch_expand_element hp hd)]
    exact (effect_of_decodeCompressed hd s).1.tables_eq

theorem stepTo_tables_of_decodeNext (hp : s.phase = .decodeNext) : (stepTo s).tables = s.tables := by
  cases hd : decodeCode (s.b.drop s.decoder.pos) with
  | error r =>
    rw [stepTo_of_command (fetch_decodeNext_end hp hd)]
    exact State.raise_tables s _ _
  | ok i =>
    rw [stepTo_of_element (fetch_decodeNext_element hp hd)]
    exact (effect_of_decodeCode hd s).1.tables_eq

theorem stepTo_tables_of_decodeWord (hp : s.phase = .decodeWord) : (stepTo s).tables = s.tables := by
  cases hd : decodeCode (s.b.drop s.decoder.pos) with
  | error r =>
    rw [stepTo_of_command (fetch_decodeWord_end hp hd)]
    exact State.respond_tables s _
  | ok i =>
    rw [stepTo_of_element (fetch_decodeWord_element hp hd)]
    exact (effect_of_decodeCode hd s).1.tables_eq

theorem stepTo_tables_of_encode (hp : s.phase = .encode) : (stepTo s).tables = s.tables := by
  cases hd : decodeText (isTokenOf (s.tables.ri s.encoder.v)) (s.src.drop s.encoder.k) with
  | error r =>
    cases r with
    | endOfStream =>
      rw [stepTo_of_command (fetch_encode_end hp hd)]
      exact checkCapacity_tables _ _ s
    | unclosedGroup =>
      rw [stepTo_of_command (fetch_encode_unclosed hp hd)]
      exact State.raise_tables s _ _
  | ok i =>
    rw [stepTo_of_element (fetch_encode_element hp hd)]
    exact (effect_of_decodeText hd s).1.tables_eq

/-- A turn keeps the inputs, an ending writes only the response, and acceptance writes operands and registers. -/
@[simp] theorem stepTo_tables (s : State) : (stepTo s).tables = s.tables := by
  cases hp : s.phase with
  | idle => rw [stepTo_of_command (fetch_idle hp), idleStep_tables]
  | expand => exact stepTo_tables_of_expand hp
  | decodeNext => exact stepTo_tables_of_decodeNext hp
  | decodeWord => exact stepTo_tables_of_decodeWord hp
  | encode => exact stepTo_tables_of_encode hp
  | split => rw [stepTo_of_command (fetch_split hp), splitStep_tables]
  | compress => rw [stepTo_of_command (fetch_compress hp), compressStep_tables]

/-- Settles O41: every engine's step keeps the tables, and a request is written to its slot alone. -/
theorem tablesAreNeverWritten : Obligations.TablesAreNeverWritten := by
  refine ⟨fun s t ht => ?_, fun s c => State.submit_tables s c⟩
  rw [step_eq_stepTo] at ht
  cases ht
  exact stepTo_tables s

end Sys2Proof.Machine
end

section
/-! PROOFS. Encoding and reading back an element (O4), and what EXPAND and ENCODE read at their index (O6, O14, O8). -/

namespace Sys2Proof.Machine

variable {s : State} {b0 : Byte}

/-! ### Decoding what the encoder writes (30_encoding.md sections 2 to 4) -/

/-- A CODE2 row is read back from its lead and second byte, where there is one. -/
theorem decodeCode_code2Bytes {second : Option Byte} {i : Instr} (h : code2Row b0 second = some i) :
    decodeCode (code2Bytes b0 second) = .ok i := by
  have hhead : second.toList.head? = second := by cases second <;> rfl
  rw [code2Bytes, decodeCode, hhead, h]

theorem decodeCode_code3Bytes (a : BitVec 2) (b1 b2 : Byte) :
    decodeCode [leadF0 a, b1, b2] = .ok (.code3 a b1 b2) := by
  obtain ⟨hlead, -, ha⟩ := leadF0_facts a
  rw [decodeCode_eq_code3 hlead, ha]

/-- A group whose body holds no closing brace is read back whole, as its kind is a Token or not. -/
theorem decodeText_group (isToken : Text → Bool) {body : Text} (h : bodyOk body = true) :
    decodeText isToken (bracketGroup body)
      = .ok (if isToken (bracketGroup body) then .escNamed body else .escHex body) := by
  have hbrace : rbrace ∉ body := by simpa [bodyOk] using h
  simpa using decodeText_bracketGroup isToken hbrace []

/-- Settles O4: each decoder reads back the fields its row writes, and tells the row from the others of its stream. -/
theorem decodeEncodeRoundTrip : Obligations.DecodeEncodeRoundTrip := by
  intro isToken i hwf hnamed hhex
  cases i with
  | ptr len5 jv => exact decodeCompressed_pointerBytes len5 jv
  | lit b0 => rfl
  | code2D0 a second =>
    obtain ⟨hD0, -, -, -⟩ := code2Row_leads second
    exact decodeCode_code2Bytes (hD0 a)
  | code2D8 a second =>
    obtain ⟨-, hD8, -, -⟩ := code2Row_leads second
    exact decodeCode_code2Bytes (hD8 a)
  | code2DA second =>
    obtain ⟨-, -, hDA, -⟩ := code2Row_leads second
    exact decodeCode_code2Bytes hDA
  | code2E2 a second =>
    obtain ⟨-, -, -, hE2⟩ := code2Row_leads second
    exact decodeCode_code2Bytes (hE2 a)
  | code3 a b1 b2 => exact decodeCode_code3Bytes a b1 b2
  | code1 b0 =>
    have hlead : isCode2Lead b0 = false := by simpa [Instr.wellFormed, code1Ok] using hwf
    exact decodeCode_eq_code1 hlead (by simp)
  | escNamed body => exact (decodeText_group isToken hwf).trans (by rw [if_pos (hnamed body rfl)])
  | escHex body => exact (decodeText_group isToken hwf).trans (by rw [hhex body rfl]; rfl)
  | crlf => rfl
  | char c =>
    have hbrace : c ≠ lbrace := by simpa [Instr.wellFormed, charOk] using hwf
    exact decodeText_cons_eq_char isToken hbrace (by simp)

/-! ### PTR or LIT (R151, R157) -/

theorem decodeCompressed_eq_ptr (h : isPtrLead b0 = true) (b1 b2 : Byte) (rest : Bytes) :
    decodeCompressed (b0 :: b1 :: b2 :: rest) = .ok (.ptr (pointerLen5 b0 b1) (pointerJv b1 b2)) := by
  rw [decodeCompressed, decodePtrLit, if_pos h]

/-- A byte that is no lead, or a lead before fewer than two more bytes, is a literal. -/
theorem decodeCompressed_eq_lit_of_short {rest : Bytes} (h : isPtrLead b0 = true → rest.length < 2) :
    decodeCompressed (b0 :: rest) = .ok (.lit b0) := by
  cases hlead : isPtrLead b0 with
  | false => exact decodeCompressed_eq_lit hlead rest
  | true =>
    match rest, h hlead with
    | [], _ => rfl
    | [_], _ => rfl

/-- Settles O6: the decoder's test on the window from i on. -/
theorem compressedStreamClassification : Obligations.CompressedStreamClassification := by
  intro s b0 hp hb
  have h0 := drop_eq_cons_of_getElem? hb
  refine ⟨fun ⟨hlo, hhi, hlen⟩ => ?_, fun hnot => ?_⟩
  · have hb1 : s.w[s.expander.i + 1]? = some s.w[s.expander.i + 1] := List.getElem?_eq_getElem _
    have hb2 : s.w[s.expander.i + 2]? = some s.w[s.expander.i + 2] := List.getElem?_eq_getElem _
    rw [drop_eq_cons_of_getElem? hb1, drop_eq_cons_of_getElem? hb2] at h0
    exact ⟨_, _, hb1, hb2, fetch_expand_element hp (h0 ▸ decodeCompressed_eq_ptr (isPtrLead_iff.mpr ⟨hlo, hhi⟩) _ _ _)⟩
  · have hshort (hlead : isPtrLead b0 = true) : (s.w.drop (s.expander.i + 1)).length < 2 := by
      obtain ⟨hlo, hhi⟩ := isPtrLead_iff.mp hlead
      have hend : ¬ s.expander.i + 2 < s.w.length := fun h => hnot ⟨hlo, hhi, h⟩
      rw [List.length_drop]
      omega
    exact fetch_expand_element hp (h0 ▸ decodeCompressed_eq_lit_of_short hshort)

/-- Settles O14: with the window's end so near, the byte is fetched as a literal. -/
theorem shortPointerLeadIsLiteral : Obligations.ShortPointerLeadIsLiteral := by
  intro s b0 hp hb hend
  have hfetch : fetch s = .element (.lit b0) :=
    (compressedStreamClassification s b0 hp hb).2 fun ⟨_, _, hlen⟩ => absurd hlen (Nat.not_lt.mpr hend)
  obtain ⟨t, ht, hout, hi, -, hcmd⟩ := litCopiesByte s b0
  exact ⟨t, (step_of_element hfetch).trans ht, hout, hi, hcmd⟩

/-! ### A bracket group, CR LF, or a character (R121, R122, R127) -/

/-- At an opening brace ENCODE fetches the group up to the first closing brace. -/
theorem fetch_encode_group {body rest : Text} (hp : s.phase = .encode) (hc : s.src[s.encoder.k]? = some lbrace)
    (hsrc : s.src.drop (s.encoder.k + 1) = body ++ rbrace :: rest) (hbody : rbrace ∉ body) :
    fetch s = .element
      (if isTokenOf (s.tables.ri s.encoder.v) (bracketGroup body) then .escNamed body else .escHex body) := by
  have hgroup : s.src.drop s.encoder.k = bracketGroup body ++ rest := by
    rw [src_drop_eq_cons hc, hsrc]
    simp [bracketGroup]
  exact fetch_encode_element hp (hgroup ▸ decodeText_bracketGroup _ hbody rest)

/-- Settles O8: by the character at k; the unclosed group is one of O37's causes. -/
theorem textClassification : Obligations.TextClassification := by
  intro s c hp hc
  refine ⟨?_, ?_, fun hbrace hcrlf => ?_⟩
  · rintro rfl
    obtain ⟨-, -, hunclosed, -⟩ := encodingErrorCauses s hp
    refine ⟨fun body rest hsrc hbody => ?_, hunclosed hc⟩
    rw [fetch_encode_group hp hc hsrc hbody, isTokenOf]
    exact ⟨fun hri => by rw [if_pos (Option.isSome_iff_ne_none.mpr hri)], fun hri => by rw [hri]; rfl⟩
  · rintro rfl hlf
    refine fetch_encode_element hp ?_
    rw [src_drop_eq_cons hc, src_drop_eq_cons hlf]
    exact decodeText_crlf _ _
  · refine fetch_encode_element hp ?_
    rw [src_drop_eq_cons hc]
    exact decodeText_cons_eq_char _ hbrace (by rwa [List.head?_drop])

end Sys2Proof.Machine
end

section
/-! PROOFS. A pointer passed through (O11) or unmapped (O12), and PT_LOG along a scan (O46). -/

namespace Sys2Proof.Machine

variable {s : State}

/-! ### The pass-through and the unmapped pointer (R154, R155) -/

/-- Settles O11: the hypothesis is that the source range leaves the full buffer. -/
theorem ptrPassesThrough : Obligations.PtrPassesThrough := by
  intro s len5 jv jump hj hrange
  have hout : PtrOutOfBounds len5 jv jump s := hrange
  obtain ⟨-, he⟩ | ⟨hin, -⟩ := ptrEffect_mapped_cases hj len5
  · exact ⟨_, congrArg Host.Outcome.next he, rfl, rfl, rfl, .refl s⟩
  · exact absurd hout hin

/-- Settles O12: only the decompressor's registers are written before the raise. -/
theorem ptrUnmappedRaises : Obligations.PtrUnmappedRaises := fun s len5 jv hj =>
  ⟨(ptrFields len5 jv s).raise .unmappedJump s.expander.i, congrArg Host.Outcome.next (ptrEffect_unmapped hj len5),
    .raise _ _ _, .refl s, rfl, rfl, rfl, rfl⟩

/-! ### PT_LOG along a scan (R222) -/

/-- PT_LOG is increasing and holds indices already scanned. -/
def LogScanned (e : Expander) : Prop := e.ptLog.Pairwise (· < ·) ∧ ∀ x ∈ e.ptLog, x < e.i

theorem LogScanned.of_nil {e : Expander} (h : e.ptLog = []) : LogScanned e := by
  simp [LogScanned, h]

theorem LogScanned.advance {e e' : Expander} (h : LogScanned e) (hlog : e'.ptLog = e.ptLog) (hi : e.i ≤ e'.i) :
    LogScanned e' := by
  obtain ⟨hinc, hlt⟩ := h
  rw [LogScanned, hlog]
  exact ⟨hinc, fun x hx => (hlt x hx).trans_le hi⟩

/-- The index just scanned is greater than those in the log, so it may be appended. -/
theorem LogScanned.append {e e' : Expander} (h : LogScanned e) (hlog : e'.ptLog = e.ptLog ++ [e.i]) (hi : e.i < e'.i) :
    LogScanned e' := by
  obtain ⟨hinc, hlt⟩ := h
  rw [LogScanned, hlog]
  refine ⟨List.pairwise_append.mpr ⟨hinc, List.pairwise_singleton _ _, by simpa using hlt⟩, fun x hx => ?_⟩
  obtain hx | rfl : x ∈ e.ptLog ∨ x = e.i := by simpa using hx
  · exact (hlt x hx).trans hi
  · exact hi

/-- An element of the compressed stream raises UnmappedJump, or goes on with PT_LOG as it was or with i appended. -/
theorem effect_logs {bytes : Bytes} {i : Instr} (hd : decodeCompressed bytes = .ok i) (s : State) :
    (∃ u : State, effect i s = u.raise .unmappedJump s.expander.i)
      ∨ ∃ bs e, effect i s = (s.emit bs).setExpander e ∧ s.expander.i < e.i
          ∧ (e.ptLog = s.expander.ptLog ∨ e.ptLog = s.expander.ptLog ++ [s.expander.i]) := by
  obtain ⟨b0, b1, b2, rest, -, -, rfl⟩ | ⟨b0, rest, -, -, rfl⟩ := decodeCompressed_cases hd
  · cases hj : jumpLookup s.tables.jtInv (pointerJv b1 b2) with
    | none => exact .inl ⟨_, ptrEffect_unmapped hj _⟩
    | some jump =>
      have hi : s.expander.i < s.expander.i + 3 := by omega
      obtain ⟨-, he⟩ | ⟨-, he⟩ := ptrEffect_mapped_cases hj (pointerLen5 b0 b1)
      · exact .inr ⟨_, _, he, hi, .inr rfl⟩
      · exact .inr ⟨_, _, he, hi, .inl rfl⟩
  · exact .inr ⟨_, _, litEffect_eq b0 s, Nat.lt_succ_self _, .inl rfl⟩

/-- Settles O46: the end of the scan delivers the log, an error clears it, and an element appends i at most. -/
theorem passThroughLogIsIncreasing : Obligations.PassThroughLogIsIncreasing := by
  intro s t hp hinc hlt ht
  have h : LogScanned s.expander := ⟨hinc, hlt⟩
  rw [step_eq_stepTo] at ht
  cases ht
  suffices hgoal : LogScanned (stepTo s).expander ∧ ∀ out log,
      (stepTo s).response = some (.ok (.expanded out log)) → s.response = none → log = s.expander.ptLog from
    and_assoc.mp hgoal
  cases hd : decodeCompressed (s.w.drop s.expander.i) with
  | error r =>
    rw [stepTo_of_command (fetch_expand_end hp hd)]
    refine ⟨h, ?_⟩
    rintro _ _ ⟨⟩ -
    rfl
  | ok i =>
    rw [stepTo_of_element (fetch_expand_element hp hd)]
    obtain ⟨u, he⟩ | ⟨bs, e, he, hi, hlog⟩ := effect_logs hd s <;> rw [he]
    · exact ⟨.of_nil rfl, nofun⟩
    · refine ⟨?_, fun _ _ hresp hnone => ?_⟩
      · obtain hlog | hlog := hlog
        · exact h.advance hlog hi.le
        · exact h.append hlog hi
      · cases hnone.symm.trans hresp

end Sys2Proof.Machine
end

section
/-! PROOFS. Codes as text: the fallback Token (O22), hex escapes (O24), and CR LF (O25). -/

namespace Sys2Proof.Machine

/-! ### Digits written (R12, R83) -/

theorem hexDigit_mem_upperHexChars {n : Nat} (h : n < 16) : hexDigit n ∈ upperHexChars := by
  revert n; decide

theorem mem_upperHexChars_of_mem_hexText {n v : Nat} {c : Char} (h : c ∈ hexText n v) : c ∈ upperHexChars := by
  induction n generalizing v with
  | zero => cases h
  | succ n ih =>
    obtain h | rfl : c ∈ hexText n (v / 16) ∨ c = hexDigit (v % 16) := by simpa [hexText] using h
    · exact ih h
    · exact hexDigit_mem_upperHexChars (Nat.mod_lt v (by decide))

/-- Settles O22: the 2w digits of a Code of w bytes hold its whole value. -/
theorem lookupFallsBackToHexEscape : Obligations.LookupFallsBackToHexEscape := by
  intro m code w hw
  refine ⟨fun t ht => by rw [lookupToken, ht], fun hn => ⟨hexText (2 * w) code.toNat, ?_, hexText_length _ _,
    fun c => mem_upperHexChars_of_mem_hexText, ?_⟩⟩
  · rw [lookupToken, hn, fallbackToken]
  · rw [parseHex_hexText, pow_mul]
    exact Nat.mod_eq_of_lt hw

/-! ### Digits read (R123) -/

theorem hexValue?_getD_lt (c : Char) : (hexValue? c).getD 0 < 16 := by
  unfold hexValue?
  repeat' split
  all_goals
    simp only [Option.getD_some, Option.getD_none]
    omega

theorem parseHex_lt (t : Text) : parseHex t < 16 ^ t.length := by
  induction t using List.reverseRecOn with
  | nil => decide
  | append_singleton t c ih =>
    have hc := hexValue?_getD_lt c
    rw [parseHex_append_singleton, List.length_append, List.length_singleton, pow_succ]
    omega

/-- A character is in a list that has all characters of its range of code points. -/
theorem mem_of_toNat_range {cs : Text} {c : Char} {lo n : Nat} (hall : ∀ k < n, Char.ofNat (lo + k) ∈ cs)
    (hlo : lo ≤ c.toNat) (hhi : c.toNat < lo + n) : c ∈ cs := by
  have hmem := hall (c.toNat - lo) (by omega)
  rwa [Nat.add_sub_cancel' hlo, Char.ofNat_toNat] at hmem

theorem isHexDigit_iff {c : Char} : isHexDigit c = true ↔ c ∈ hexDigitChars := by
  have hdigits : ∀ d ∈ hexDigitChars, isHexDigit d = true := List.all_eq_true.mp (by decide)
  refine ⟨fun h => ?_, hdigits c⟩
  unfold isHexDigit hexValue? at h
  split at h
  · next hc => exact mem_of_toNat_range (n := 10) (by decide) hc.1 (Nat.lt_succ_of_le hc.2)
  · split at h
    · next hc => exact mem_of_toNat_range (n := 6) (by decide) hc.1 (Nat.lt_succ_of_le hc.2)
    · split at h
      · next hc => exact mem_of_toNat_range (n := 6) (by decide) hc.1 (Nat.lt_succ_of_le hc.2)
      · cases h

/-- The accepted bodies of a hex escape (decision D12; log 15). -/
theorem hexEscapeDigits_eq_some_iff {body digits : Text} :
    hexEscapeDigits body = some digits ↔
      body = '0' :: 'x' :: digits ∧ 1 ≤ digits.length ∧ digits.length ≤ 6 ∧ ∀ c ∈ digits, c ∈ hexDigitChars := by
  simp only [← isHexDigit_iff, ← List.all_eq_true]
  match body with
  | [] => simp [hexEscapeDigits]
  | [_] => simp [hexEscapeDigits]
  | c0 :: c1 :: ds =>
    rw [hexEscapeDigits, Option.ite_none_right_eq_some, Option.some.injEq]
    constructor
    · rintro ⟨⟨rfl, rfl, h⟩, rfl⟩
      exact ⟨rfl, h⟩
    · rintro ⟨⟨⟩, h⟩
      exact ⟨⟨rfl, rfl, h⟩, rfl⟩

/-- The value of an accepted hex escape fits a Code. -/
theorem ofNat_parseHex_toNat {digits : Text} (h : digits.length ≤ 6) :
    (BitVec.ofNat 24 (parseHex digits)).toNat = parseHex digits := by
  have hlt : parseHex digits < 16 ^ 6 := (parseHex_lt digits).trans_le (Nat.pow_le_pow_right (by decide) h)
  exact Nat.mod_eq_of_lt hlt

/-- Settles O24: the value of the group is its digits' where the body is accepted, and there is none where it is not. -/
theorem escHexEmitsValueOrFails : Obligations.EscHexEmitsValueOrFails := by
  refine fun s body => ⟨fun digits hbody h1 h6 hdigits => ?_, fun hnot => ?_⟩
  · have hvalue : elementValue (s.tables.ri s.encoder.v) (.escHex body)
        = some (BitVec.ofNat 24 (parseHex digits)) := by
      rw [elementValue, hexEscapeDigits_eq_some_iff.mpr ⟨hbody, h1, h6, hdigits⟩, Option.map_some]
    refine ⟨_, _, exec_eq_effect _ s, ofNat_parseHex_toNat h6, .of_elementValue rfl hvalue, ?_⟩
    rw [effect_of_elementValue_eq_some rfl hvalue]
    rfl
  · refine ⟨_, exec_eq_effect _ s, .of_elementValue rfl (elementValue_escHex_eq_none _ ?_)⟩
    rw [isHexEscape, Option.isSome_eq_false_iff, Option.isNone_iff_eq_none, Option.eq_none_iff_forall_ne_some]
    intro digits hsome
    obtain ⟨hbody, h1, h6, hdigits⟩ := hexEscapeDigits_eq_some_iff.mp hsome
    exact hnot digits hbody h1 h6 hdigits

/-- Settles O25: the value of CRLF is what the reverse index says of the text CR LF. -/
theorem crlfEmitsTokenCode : Obligations.CrlfEmitsTokenCode := fun _ =>
  ⟨fun _ hl => ⟨_, exec_eq_effect _ _, .of_elementValue rfl hl⟩,
    fun hl => ⟨_, exec_eq_effect _ _, .of_elementValue rfl hl⟩⟩

end Sys2Proof.Machine
end

section
/-! PROOFS. The tables of a reset machine (O39), and the invariant at reset and at a request (O44, O45). -/

namespace Sys2Proof.Machine

variable {m : CharMap}

/-! ### What the checks on a CharacterMap say (R22, R23) -/

theorem charMapLookup_of_hasToken (hm : codesRising m = true) {t : Token} (h : hasToken m t = true) :
    ∃ c, charMapLookup m c = some t := by
  obtain ⟨⟨c, u⟩, he, hu⟩ := List.any_eq_true.mp h
  obtain rfl : u = t := by simpa using hu
  exact ⟨c, charMapLookup_of_mem hm he⟩

theorem charMapLookup_of_hasPunctuation (hm : codesRising m = true) (h : hasPunctuation m = true) :
    ∃ c p, charMapLookup m c = some [p] ∧ isPunctuation p = true := by
  obtain ⟨⟨c, t⟩, he, ht⟩ := List.any_eq_true.mp h
  match t, ht with
  | [p], hp => exact ⟨c, p, charMapLookup_of_mem hm he, hp⟩

/-- What stands after a family's name is not empty. -/
theorem exists_of_inFamily {name body : Text} (h : inFamily name body = true) : ∃ nn, nn ≠ [] ∧ body = name ++ nn := by
  simp only [inFamily, Bool.and_eq_true, List.isPrefixOf_iff_prefix, decide_eq_true_eq] at h
  obtain ⟨⟨nn, rfl⟩, hlen⟩ := h
  refine ⟨nn, ?_, rfl⟩
  rintro rfl
  simp at hlen

theorem charMapLookup_of_hasFamily (hm : codesRising m = true) {name : Text} (h : hasFamily m name = true) :
    ∃ c nn, nn ≠ [] ∧ rbrace ∉ nn ∧ charMapLookup m c = some (bracketGroup (name ++ nn)) := by
  obtain ⟨⟨c, t⟩, he, ht⟩ := List.any_eq_true.mp h
  obtain ⟨body, hgroup, hfam⟩ := (Option.any_eq_true _ _).mp ht
  obtain ⟨rfl, hbrace⟩ : t = bracketGroup body ∧ rbrace ∉ body := groupOf_eq_some.mp hgroup
  obtain ⟨nn, hne, rfl⟩ := exists_of_inFamily hfam
  exact ⟨c, nn, hne, fun hmem => hbrace (List.mem_append_right name hmem), charMapLookup_of_mem hm he⟩

/-- R22 of an entry: its Token is not empty, and is the one its Code is looked up to. -/
theorem charMapWf_entry (hm : charMapWf m = true) {c : Code} {t : Token} (he : (c, t) ∈ m) :
    t ≠ [] ∧ charMapLookup m c = some t := by
  obtain ⟨hrising, hall⟩ := Bool.and_eq_true_iff.mp hm
  exact ⟨by simpa using List.all_eq_true.mp hall _ he, charMapLookup_of_mem hrising he⟩

/-! ### The tables at reset (R32, R42, R241) -/

theorem reset_cm (v : Variant) : State.reset.tables.cm v = resetCharMap v := by cases v <;> rfl

theorem reset_ri (v : Variant) : State.reset.tables.ri v = reverseBuild (resetCharMap v) := by cases v <;> rfl

theorem resetCharMap_wf (v : Variant) : charMapWf (resetCharMap v) = true := constrainCharMap_wf _

theorem resetCharMap_facts (v : Variant) : charMapSourceFacts (resetCharMap v) = true := constrainCharMap_facts _

/-- Settles O39: a constrained map meets R22 and R23, check by check, and the reset JumpTable is coherent. -/
theorem resetTablesMeetTheConstraints : Obligations.ResetTablesMeetTheConstraints := by
  refine ⟨rfl, rfl, fun v => ?_, fun d hd => ?_⟩
  · have hwf := resetCharMap_wf v
    obtain ⟨hrising, -⟩ := Bool.and_eq_true_iff.mp hwf
    have hfacts := resetCharMap_facts v
    simp only [charMapSourceFacts, Bool.and_eq_true, beq_iff_eq] at hfacts
    obtain ⟨⟨⟨⟨⟨⟨⟨⟨hA, hB⟩, hcrlf⟩, hend⟩, hclose⟩, hlist⟩, hdelay⟩, hcolor⟩, hpunct⟩ := hfacts
    rw [reset_ri, reset_cm]
    refine ⟨rfl, hA, hB, charMapLookup_of_hasPunctuation hrising hpunct, ?_, ?_, fun c t => charMapWf_entry hwf⟩
    · simp only [List.forall_mem_cons]
      exact ⟨charMapLookup_of_hasToken hrising hcrlf, charMapLookup_of_hasToken hrising hend,
        charMapLookup_of_hasToken hrising hclose, charMapLookup_of_hasToken hrising hlist, nofun⟩
    · simp only [List.forall_mem_cons]
      exact ⟨charMapLookup_of_hasFamily hrising hdelay, charMapLookup_of_hasFamily hrising hcolor, nofun⟩
  · exact ⟨_, List.getElem?_eq_getElem hd, jumpLookup_of_jumpIndexOf resetJump_coherent (List.getElem?_eq_getElem hd)⟩

/-! ### The invariant at reset and at a request -/

theorem reset_tablesWf : tablesWf State.reset.tables = true := by
  simp [tablesWf, State.reset, resetTables, resetCharMap_wf, resetJump_coherent]

/-- Settles O44: the buffer is empty, the tables are constrained, and no command has run. -/
theorem resetMeetsInvariant : Obligations.ResetMeetsInvariant :=
  ⟨reset_fb_wf, reset_tablesWf, trivial, nofun, fun hp => absurd rfl hp⟩

/-- Settles O45: only the request slot is written, and in the idle block it is free. -/
theorem submitKeepsInvariant : Obligations.SubmitKeepsInvariant := fun _ _ h hp =>
  ⟨h.buffer, h.tables, h.scan, h.status, fun hn => absurd hp hn⟩

end Sys2Proof.Machine
end

section
/-! PROOFS. The idle block (O33), the ends of commands (O35, O36, O52), errors and their status (O38, O60), and the
candidate text of COMPRESS (O56). -/

namespace Sys2Proof.Machine

variable {s : State}

/-- Settles O33: an idle block looks at the request slot alone. -/
theorem idleBlockWaits : Obligations.IdleBlockWaits := by
  intro s hp hr
  rw [step_eq_stepTo, stepTo_idle hp hr]

/-! ### Errors (R215, R216) -/

/-- Settles O38: the raise writes the response and what `discard` clears. -/
theorem raiseDiscardsOutput : Obligations.RaiseDiscardsOutput := fun s e n =>
  ⟨.raise s e n, .raise s e n, rfl, rfl, rfl, rfl, rfl⟩

/-- Settles O60: STATUS is that of the response just given. -/
theorem statusNumbersOfResponses : Obligations.StatusNumbersOfResponses := by
  intro s n
  simp only [State.respond_status, State.raise_status]
  exact ⟨fun r => rfl, rfl, rfl, rfl, rfl, rfl⟩

/-! ### The capacity check at the end of a scan (R214) -/

/-- A fetch of the end of a scan with maxLen answers CapacityError past it, and the result up to it. -/
theorem step_of_fetch_checkCapacity {m : Nat} {r : Result} (h : fetch s = .command (checkCapacity (some m) r s)) :
    (m < s.out.length → ∃ t, step s = .next t ∧ Raised .capacityError s.out.length t)
      ∧ (s.out.length ≤ m → ∃ t, step s = .next t ∧ t.response = some (.ok r) ∧ t.status = .ok) := by
  have hstep : step s = .next (checkCapacity (some m) r s) := by rw [step_eq_stepTo, stepTo_of_command h]
  refine ⟨fun hlt => ⟨_, hstep, ?_⟩, fun hle => ⟨_, hstep, ?_⟩⟩
  · rw [checkCapacity, if_pos hlt]
    exact .raise _ _ _
  · rw [checkCapacity, if_neg (Nat.not_lt.mpr hle)]
    exact ⟨rfl, rfl⟩

/-- Settles O35: with nothing left to scan, both engines fetch the capacity check. -/
theorem capacityIsCheckedAtTheEnd : Obligations.CapacityIsCheckedAtTheEnd := by
  refine fun s m => ⟨fun hp hl hm => step_of_fetch_checkCapacity ?_, fun hp hl hm => step_of_fetch_checkCapacity ?_⟩
  · rw [fetch_encode_end hp (by rw [List.drop_eq_nil_of_le hl]; rfl), finishEncode, hm]
  · rw [fetch_compress hp, compressStep_end hl, finishCompress, hm]

/-! ### DECODE_NEXT (R105, R219) -/

/-- Settles O36: with nothing left at pos, the fetch is the raise. -/
theorem decodeNextPastEndIsBadOperand : Obligations.DecodeNextPastEndIsBadOperand := by
  intro s hp hl
  have hfetch : fetch s = .command (s.raise .badOperand s.decoder.pos) :=
    fetch_decodeNext_end (r := .endOfStream) hp (by rw [List.drop_eq_nil_of_le hl]; rfl)
  exact ⟨_, by rw [step_eq_stepTo, stepTo_of_command hfetch], .raise _ _ _⟩

/-- An assembled Code is at most three bytes wide, as all of its element's bytes are the Code's. -/
theorem width_le_three {bytes : Bytes} {i : Instr} {code : Code} (hd : decodeCode bytes = .ok i)
    (hc : elementCode i = some code) : i.width ≤ 3 := by
  obtain ⟨hreads, -⟩ := readsCode_of_decodeCode hd hc
  obtain ⟨-, h3, -⟩ := codeBytes_length_bounds code
  exact (hreads.width_eq hd).trans_le h3

/-- The one turn of DECODE_NEXT answers; with a Token, at an index 1 to 3 past pos and within the input. -/
theorem Running.answer_decodeNext {b : Bytes} {pos n : Nat} {v : Variant} (h : Running (.decodeNext b pos v) n s) :
    ∃ r, Answered r (stepTo s) ∧ ∀ tok newpos, r = .ok (.decodedNext tok newpos) →
      pos < newpos ∧ newpos ≤ b.length ∧ newpos ≤ pos + 3 := by
  obtain ⟨hp, hr, rfl, rfl, rfl⟩ := h
  cases hd : decodeCode (s.b.drop s.decoder.pos) with
  | error e =>
    rw [stepTo_of_command (fetch_decodeNext_end hp hd)]
    exact ⟨_, .raise hr _ _, nofun⟩
  | ok i =>
    rw [stepTo_of_element (fetch_decodeNext_element hp hd)]
    cases hc : elementCode i with
    | none =>
      obtain ⟨-, hans⟩ := answered_of_truncated hr hd hc
      exact ⟨_, hans, nofun⟩
    | some code =>
      obtain ⟨b0, he⟩ := effect_decodeNext hp hc
      have hpos := instr_width_pos i
      have hle := add_le_of_le_length_drop hpos (decodeCode_width_le hd)
      have h3 := width_le_three hd hc
      rw [he]
      refine ⟨_, .respond (s := codeRegisters b0 code i.width s) hr _, ?_⟩
      rintro _ _ ⟨⟩
      exact ⟨by omega, hle, by omega⟩

/-- Settles O52: the command is accepted in one step and answered in the next, and completes with no other response. -/
theorem decodeNextAdvances : Obligations.DecodeNextAdvances := by
  intro s b pos newpos v tok hp h
  obtain ⟨r, hans, hbounds⟩ := (running_accept (.decodeNext b pos v) (s.submit (.decodeNext b pos v))).answer_decodeNext
  have hrun : Answered r (runFor 2 (s.submit (.decodeNext b pos v))) := by
    simpa only [runFor, advance_eq_stepTo, stepTo_submit hp] using hans
  exact hbounds tok newpos (Completes.unique (.of_answered hrun) h)

/-! ### The candidate text (R193) -/

/-- Where the bytes taken stop short, the next one does not meet the condition. -/
theorem getElem?_length_takeWhile {p : Byte → Bool} {xs : Bytes} (h : (xs.takeWhile p).length < xs.length) :
    ∃ x, xs[(xs.takeWhile p).length]? = some x ∧ p x = false := by
  induction xs with
  | nil => simp at h
  | cons x xs ih =>
    cases hx : p x with
    | false => exact ⟨x, by simp [hx], hx⟩
    | true =>
      simp only [List.takeWhile_cons_of_pos hx, List.length_cons, Nat.succ_lt_succ_iff] at h ⊢
      exact ih h

/-- A byte that is not past the ones taken meets the condition. -/
theorem of_getElem?_takeWhile {p : Byte → Bool} {xs : Bytes} {n : Nat} {x : Byte} (hn : n < (xs.takeWhile p).length)
    (hx : xs[n]? = some x) : p x = true := by
  have hget := (List.takeWhile_prefix p (l := xs)).getElem hn
  obtain ⟨_, rfl⟩ := List.getElem?_eq_some_iff.mp hx
  exact hget ▸ List.mem_takeWhile_imp (List.getElem_mem hn)

/-- Settles O56: after its first byte the candidate is the bytes before the next delimiter, of the 34 that follow. -/
theorem candidateEndsAtBoundary : Obligations.CandidateEndsAtBoundary := by
  intro left hleft
  obtain ⟨x, xs, rfl⟩ := List.exists_cons_of_ne_nil hleft
  have hlen : (candidate (x :: xs)).length = ((xs.take 34).takeWhile (· != delimiter)).length + 1 := rfl
  have htaken := ((xs.take 34).takeWhile_prefix (· != delimiter)).length_le
  have h34 := List.length_take_le 34 xs
  refine ⟨(candidate (x :: xs)).length, List.prefix_iff_eq_take.mp (candidate_prefix _), by omega, by omega,
    candidate_length_le _, fun q h1 hq hdelim => ?_, fun hn hn' => ?_⟩
  · obtain ⟨k, rfl⟩ : ∃ k, q = k + 1 := ⟨q - 1, by omega⟩
    have hk : (xs.take 34)[k]? = some delimiter := (List.getElem?_take_of_lt (by omega)).trans hdelim
    exact absurd (of_getElem?_takeWhile (Nat.lt_of_succ_lt_succ (hlen ▸ hq)) hk) (by decide)
  · rw [hlen] at hn hn' ⊢
    obtain ⟨d, hd, hdelim⟩ := getElem?_length_takeWhile (p := (· != delimiter)) (xs := xs.take 34)
      (by simp only [List.length_take, List.length_cons] at hn' ⊢; omega)
    obtain rfl : d = delimiter := by simpa using hdelim
    rw [List.getElem?_cons_succ]
    exact (List.getElem?_take_of_lt (by omega)).symm.trans hd

end Sys2Proof.Machine
end
